-- ==== Sys2Proof/Word.lean ====
section
/-! DEFINITION. The bit vectors the block works on: all unsigned, each of one stated width (00_scope.md R11,
30_encoding.md R71). -/

namespace Sys2Proof

/-- One byte of a frame. Bit 7 is the most significant (R10). -/
abbrev Byte := BitVec 8

/-- The write-through operand: 16 bits, never treated as signed (R8 `VALUE_BITS`, R71). -/
abbrev Value := BitVec 16

/-- A power-down mode code, the content of the 4-bit field `MODE` (R8 `MODE_BITS`, R66). -/
abbrev Code := BitVec 4

end Sys2Proof
end

