-- ==== Sys2Proof/Config.lean ====
section
/-! DEFINITION. What is fixed for one instance of the block (00_scope.md R8), the closed sets its operations speak of, the
answers the environment may give, and the values the spec leaves free. -/

namespace Sys2Proof

/-- The two variants (R2): 2-byte and 3-byte frames. Fixed by the hardware wired; no operation changes it. -/
inductive Variant where
  | narrow
  | wide
deriving DecidableEq, Repr, Inhabited

/-- A level of the control line. The line is an active-low chip-select: `low` is active (asserted), `high` is inactive
(R9, R42). The polarity is no parameter. -/
inductive Level where
  | low
  | high
deriving DecidableEq, Repr, Inhabited

/-- The power-down modes, a closed set of exactly four (R41, R66): Normal, HighImpedance, GroundThrough100kOhm and
GroundThrough1kOhm (also spelled Gnd1KOhm, 90_conflicts.md C4). -/
inductive Mode where
  | normal
  | hiz
  | gnd100k
  | gnd1k
deriving DecidableEq, Repr, Inhabited

/-! `TErr` and `CErr`, the transport's and the control line's error kinds, are open: any types, also types without a value,
which the model takes as arguments (R8, decision D17). Every type below and every operation is generic in them. Where they
are not given, as in `State.reset` and `core`, they are the numbers (DESIGN CHOICE, log entry 5). -/

/-- An answer of the transport to one `TxWrite` (R43); also the result of a `PD` or `WT`, which is that answer unchanged
(R25, R120). That the transport may never answer is the absence of an answer (R129). -/
inductive TxAnswer (TErr : Type := Nat) where
  | ok
  | err (e : TErr)
deriving DecidableEq, Repr, Inhabited

/-- An answer of the control line to one `CsSet` (R42). -/
inductive CsAnswer (CErr : Type := Nat) where
  | ok
  | err (c : CErr)
deriving DecidableEq, Repr, Inhabited

/-- What the control-line driver does with one `CsSet`: its answer, and, where the answer is an error, the physical level
it leaves the line at, which may be either (R28, decision D9; log entry 9). -/
inductive LineAnswer (CErr : Type := Nat) where
  | ok
  | err (c : CErr) (leaves : Level)
deriving DecidableEq, Repr, Inhabited

/-- `PD_CODE` as data: the code of each of the four modes (R8, R66). -/
structure PdCodes where
  normal  : Code
  hiz     : Code
  gnd100k : Code
  gnd1k   : Code
deriving DecidableEq, Repr, Inhabited

/-- The parameters of one instance (R8). -/
structure Config where
  variant : Variant
  pdCodes : PdCodes
deriving DecidableEq, Repr, Inhabited

/-- FREE VALUE: what the control line answers to the `n`-th drive request when the list of scripted answers is used up.
Every drive request is answered (R42, R173, decision D11), with an answer the model does not know (log entry 8). -/
opaque Config.freeLine {CErr : Type} (n : Nat) : LineAnswer CErr

/-- FREE VALUE: the content of `CS_CMD` before the first drive request, which the spec leaves unspecified (R23, R31,
decision D5; DESIGN CHOICE, log entry 10). -/
opaque Config.csCmdAtPowerOn : Level

/-- FREE VALUE: the physical level of the line at power-on, "whatever the environment left" (R31, R161, decision D5;
DESIGN CHOICE, log entry 10). -/
opaque Config.csPhysAtPowerOn : Level

end Sys2Proof
end

