-- ==== Sys2Proof/Syntax.lean ====
section
/-! DEFINITION. The instructions: one constructor for each row of spec/opcode_table.json, in the table's order. The
operations without a frame (`CONSTRUCT`, `DESTROY`, 30_encoding.md R76) have no row; they are host operations of
Machine/State.lean. -/

namespace Sys2Proof

/-- The four commands that have a frame format (R60). A command of one variant is presented only to an instance of that
variant (R2). -/
inductive Instr where
  /-- `PD.N mode`, narrow power-down (R100). -/
  | pdN (mode : Mode)
  /-- `WT.N value`, narrow write-through (R110): every 16-bit value may be presented. -/
  | wtN (value : Value)
  /-- `PD.W mode`, wide power-down (R101). -/
  | pdW (mode : Mode)
  /-- `WT.W value`, wide write-through (R111). -/
  | wtW (value : Value)
deriving DecidableEq, Repr

end Sys2Proof
end

