-- ==== Sys2Proof/WellFormed.lean ====
section
/-! DEFINITION. Which instructions a frame can name whole, which instance they are for, and which code tables are legal. -/

namespace Sys2Proof

/-- The variant whose command this is (the suffix of R13). -/
def Instr.variant : Instr → Variant
  | .pdN _ => .narrow
  | .wtN _ => .narrow
  | .pdW _ => .wide
  | .wtW _ => .wide

/-- The instruction is the one its own frame decodes to: a narrow value above `0x3FFF` is a legal operand, but its bits
15:14 reach no frame (R64, R110 corner case b), so no frame names it. -/
def Instr.wf : Instr → Bool
  | .pdN _ => true
  | .wtN value => value.ule 0x3FFF#16
  | .pdW _ => true
  | .wtW _ => true

/-- The instruction belongs to this variant and its frame names it whole. -/
def Instr.wfOn (v : Variant) (i : Instr) : Bool :=
  decide (i.variant = v) && i.wf

/-- The code table's one constraint from the source, `PD_CODE(GND1K) = 0b0011` (R66), and the distinctness of the four
codes (decision D3; log entry 4). -/
def PdCodes.wf (p : PdCodes) : Bool :=
  decide (p.gnd1k = 0b0011#4) && decide ([p.normal, p.hiz, p.gnd100k, p.gnd1k].Nodup)

/-- A legal configuration: either variant, with a legal code table. -/
def Config.wf (c : Config) : Bool :=
  c.pdCodes.wf

end Sys2Proof
end

