-- ==== Sys2Proof/Decode.lean ====
section
/-! DEFINITION. The frame formats of 30_encoding.md R60 to R66: the decoder (a test bench's inverse of the encoder, R73 to
R75, decision D13), total on any bytes and rejecting by name, and after it the encoder, which joins the fields of the
format tables R62 to R65. -/

namespace Sys2Proof

/-- `FRAME_BYTES` (R8). -/
def Variant.frameBytes : Variant → Nat
  | .narrow => 2
  | .wide => 3

/-- `FRAME_BITS = 8 * FRAME_BYTES` (R8). -/
def Variant.frameBits (v : Variant) : Nat :=
  8 * v.frameBytes

/-- `DATA_BITS` (R8): how many bits of the 16-bit value reach the frame, the low ones (90_conflicts.md C1, C2). -/
def Variant.dataBits : Variant → Nat
  | .narrow => 14
  | .wide => 16

/-- `DATA_LSB` (R8): the frame bit that carries bit 0 of the value. -/
def Variant.dataLsb : Variant → Nat
  | .narrow => 0
  | .wide => 6

/-- `SEL_PD`, the selector of a power-down frame (R61). -/
def selPd : BitVec 2 := 0b10#2

/-- `SEL_WT`, the selector of a write-through frame (R61). -/
def selWt : BitVec 2 := 0b01#2

/-- The default `PD_CODE` table (R66). Only `GND1K` is the source's; the other three rest on decision D3 (log entry 4). -/
def PdCodes.decided : PdCodes :=
  { normal := 0b0000#4, hiz := 0b0001#4, gnd100k := 0b0010#4, gnd1k := 0b0011#4 }

/-- `PD_CODE(mode)` (R66). -/
def PdCodes.code (p : PdCodes) : Mode → Code
  | .normal => p.normal
  | .hiz => p.hiz
  | .gnd100k => p.gnd100k
  | .gnd1k => p.gnd1k

/-- The mode a code stands for, if any (R75 b). -/
def PdCodes.mode? (p : PdCodes) (c : Code) : Option Mode :=
  [Mode.normal, .hiz, .gnd100k, .gnd1k].find? fun m => decide (p.code m = c)

/-- Why a byte list is no frame of the instance. -/
inductive Invalid where
  /-- Not `FRAME_BYTES` bytes (R74). -/
  | length
  /-- Selector `0b00` or `0b11` (R73). -/
  | selector
  /-- A padding bit is not zero (R75 a and c). -/
  | padding
  /-- The `MODE` field is no mode's code (R75 b). -/
  | modeCode
deriving DecidableEq, Repr

/-- The decoder's answer. -/
inductive Decoded where
  | command (i : Instr)
  | invalid (why : Invalid)
deriving DecidableEq, Repr

/-- `SEL`, bits 7:6 of byte0 (R61). -/
def selOf (byte0 : Byte) : BitVec 2 := byte0.extractLsb 7 6

/-- `MODE`, bits 5:2 of byte0 (R66). -/
def modeOf (byte0 : Byte) : Code := byte0.extractLsb 5 2

/-- The power-down half of the decoder: padding (byte0[1:0] and every further byte) first, then the code. -/
def decodePd (p : PdCodes) (byte0 : Byte) (trailing : List Byte) (mk : Mode → Instr) : Decoded :=
  if byte0.extractLsb 1 0 = 0#2 ∧ ∀ b ∈ trailing, b = 0#8 then
    match p.mode? (modeOf byte0) with
    | some m => .command (mk m)
    | none => .invalid .modeCode
  else .invalid .padding

/-- A narrow frame: format `PD.N` (R62) or `WT.N` (R64; the 14 data bits, bits 15:14 read as zero). -/
def decodeNarrow (p : PdCodes) (byte0 byte1 : Byte) : Decoded :=
  if selOf byte0 = selPd then decodePd p byte0 [byte1] .pdN
  else if selOf byte0 = selWt then .command (.wtN (0b00#2 ++ (byte0.extractLsb 5 0 : BitVec 6) ++ byte1))
  else .invalid .selector

/-- A wide frame: format `PD.W` (R63) or `WT.W` (R65; byte2[5:0] is padding). -/
def decodeWide (p : PdCodes) (byte0 byte1 byte2 : Byte) : Decoded :=
  if selOf byte0 = selPd then decodePd p byte0 [byte1, byte2] .pdW
  else if selOf byte0 = selWt then
    if byte2.extractLsb 5 0 = 0#6 then
      .command (.wtW ((byte0.extractLsb 5 0 : BitVec 6) ++ byte1 ++ (byte2.extractLsb 7 6 : BitVec 2)))
    else .invalid .padding
  else .invalid .selector

/-- The decoder. The length is told from the variant, never from the frame (R74). -/
def decode (c : Config) (bytes : List Byte) : Decoded :=
  match c.variant, bytes with
  | .narrow, [byte0, byte1] => decodeNarrow c.pdCodes byte0 byte1
  | .wide, [byte0, byte1, byte2] => decodeWide c.pdCodes byte0 byte1 byte2
  | _, _ => .invalid .length

/-- The frame written as one number, as bytes: byte0 is the most significant (R10). -/
def frameOfNumber (v : Variant) (w : Nat) : List Byte :=
  match v with
  | .narrow => [BitVec.ofNat 8 (w / 256), BitVec.ofNat 8 w]
  | .wide => [BitVec.ofNat 8 (w / 65536), BitVec.ofNat 8 (w / 256), BitVec.ofNat 8 w]

/-- The variant whose frames have this many bits. -/
def variantOfBits : Nat → Option Variant
  | 16 => some .narrow
  | 24 => some .wide
  | _ => none

/-- The instruction the decoder reads from a frame written as the number `w` of `nbits` bits (`F16`, `F24` of R10, as
spec/opcode_table.json numbers them), under the default code table. -/
def decodeTableWord (nbits w : Nat) : Option Instr :=
  match variantOfBits nbits with
  | none => none
  | some v =>
    if w < 2 ^ nbits then
      match decode { variant := v, pdCodes := PdCodes.decided } (frameOfNumber v w) with
      | .command i => some i
      | .invalid _ => none
    else none

/-- The encoder, from the format tables: R62, R64, R63, R65. -/
def encode (p : PdCodes) : Instr → List Byte
  | .pdN m => [selPd ++ p.code m ++ 0b00#2, 0x00#8]
  | .wtN v => [selWt ++ v.extractLsb 13 8, v.extractLsb 7 0]
  | .pdW m => [selPd ++ p.code m ++ 0b00#2, 0x00#8, 0x00#8]
  | .wtW v => [selWt ++ v.extractLsb 15 10, v.extractLsb 9 2, v.extractLsb 1 0 ++ 0b000000#6]

/-- The instruction a frame of `i` names: bits 15:14 of a narrow value are dropped (R64, R113). -/
def Instr.canonical : Instr → Instr
  | .pdN m => .pdN m
  | .wtN v => .wtN (v &&& 0x3FFF#16)
  | .pdW m => .pdW m
  | .wtW v => .wtW v

end Sys2Proof
end

