-- ==== Sys2Proof/Machine/State.lean ====
section
/-! DEFINITION. The state of one instance (10_state.md), the operations and events of its interfaces (20_memory.md R41 to
R43), the refusals, and power-on. -/

namespace Sys2Proof.Machine

/-- The framer's four phases (R22, R121). -/
inductive Phase where
  | idle
  | asserting
  | transferring
  | deasserting
deriving DecidableEq, Repr, Inhabited

/-- The name of a transport resource (R30: a token whose identity is all that matters). -/
abbrev TransportToken := Nat

/-- The name of a control-line resource (R30). -/
abbrev LineToken := Nat

/-- The two resources a device handle owns (R21, R30). -/
structure Handle where
  transport : TransportToken
  line      : LineToken
deriving DecidableEq, Repr, Inhabited

/-- The operations of the command interface `IF-CMD` (R41). `SEND` is internal and is not among them (R78). -/
inductive HostOp where
  | construct (transport : TransportToken) (line : LineToken)
  | destroy
  | pd (mode : Mode)
  | wt (value : Value)
deriving DecidableEq, Repr

/-- What the outside does next at the block's boundary (log entries 6, 14 and 21). -/
inductive Input where
  /-- The host presents `op` and waits its turn: only after the previous operation has returned (R41). -/
  | call (op : HostOp)
  /-- `op` is presented while another operation is in progress (R149, third use). -/
  | overlapping (op : HostOp)
  /-- Two hosts present operations to this instance without mutual exclusion (R149, fourth use). -/
  | contended (op₁ op₂ : HostOp)
  /-- Somebody other than the block drives the line (R93; R31 and R91 a while no handle owns it). -/
  | outsideDrive (level : Level)
  /-- Somebody other than the block writes on the transport (R93). -/
  | outsideWrite (bytes : List Byte)
deriving DecidableEq, Repr

/-- An event: a request on an outward interface together with the environment's answer (R12). -/
inductive Event (TErr : Type := Nat) (CErr : Type := Nat) where
  | cs (level : Level) (answer : CsAnswer CErr)
  | wr (bytes : List Byte) (answer : TxAnswer TErr)
deriving DecidableEq, Repr

/-- What an operation answers on the command interface (R41). -/
inductive Return (TErr : Type := Nat) where
  /-- `CONSTRUCT` has completed; it has no result value and no failure path (R90). -/
  | constructed
  /-- The two resources `DESTROY` gives back (R91). -/
  | resources (transport : TransportToken) (line : LineToken)
  /-- The result of a `PD` or `WT` (R120). -/
  | result (r : TxAnswer TErr)
deriving DecidableEq, Repr

/-- The faults: none. The block has no trap mechanism (R140), and an error is a returned value (log entry 28). -/
inductive Fault where
deriving DecidableEq, Repr

/-- The refusals of R149 and R93 (decision D16): the operation is given no meaning, issues no event and changes no state,
and the run ends there. All are safe: nothing can be proved of such a run. -/
inductive Refusal where
  /-- An instruction of the table without a meaning: raised by no arm of this model. Safe. -/
  | notModelled (mnemonic : String)
  /-- `PD`, `WT` or `DESTROY` with `LIVE = 0` (R149). Raised by the four commands and by `DESTROY`. Safe. -/
  | noHandle
  /-- `CONSTRUCT` with `LIVE = 1` (R149). Raised by `CONSTRUCT`. Safe. -/
  | alreadyLive
  /-- An operation presented while another is in progress (R149). Raised by every operation in a phase other than `IDLE`
  and by a step that meets an overlapping presentation. Safe. -/
  | busy
  /-- Two hosts without mutual exclusion (R149). Raised by a step that meets such a presentation. Safe. -/
  | contended
  /-- The line or the transport used by another while the handle owns them (R93, R148). Raised by a step. Safe. -/
  | notExclusive
  /-- A command of the other variant (R2: no instance has both): the command interface cannot present it (R41). Raised by
  the four commands. Safe; DEDUCED, log entry 15. -/
  | otherVariant
deriving DecidableEq, Repr

/-- The state of one instance, for any types of error kinds (R8). `cfg` is the instance's other parameters. `handle`, `phase`, `csCmd`, `frame` and `res` are
the five elements of R20. `csPhys` and `trace` are the two ghosts. `returned` is the other half of the observation (R56).
The last four fields are the outside world: what host and outsiders do, what transport and control line will answer, and
the index of the next free answer. -/
structure State (TErr : Type := Nat) (CErr : Type := Nat) where
  cfg       : Config
  /-- `LIVE` and the tokens: a handle exists exactly when `LIVE = 1` (R21). -/
  handle    : Option Handle
  /-- `PHASE` (R22). -/
  phase     : Phase
  /-- `CS_CMD` (R23). -/
  csCmd     : Level
  /-- `FRAME` (R24): `none` while it is not meaningful (log entry 11). -/
  frame     : Option (List Byte)
  /-- `RES` (R25): `none` while it is not meaningful (log entry 11). -/
  res       : Option (TxAnswer TErr)
  /-- `CS_PHYS`, ghost (R28). -/
  csPhys    : Level
  /-- `TRACE`, ghost, oldest first (R29). -/
  trace     : List (Event TErr CErr)
  /-- The answers given on the command interface, oldest first (R56; log entry 23). -/
  returned  : List (Return TErr)
  /-- What the outside does next, first to come first (log entry 6). -/
  inputs    : List Input
  /-- The transport's answers to the coming requests; with none left it never answers (R43, R129; log entries 6 and 7). -/
  txAnswers : List (TxAnswer TErr)
  /-- The control line's answers to the coming requests; with none left the free ones follow (R42; log entries 6 and 8). -/
  csAnswers : List (LineAnswer CErr)
  /-- How many drive requests have been answered: the index of the next free answer (log entry 8). -/
  draws     : Nat
deriving DecidableEq, Repr

variable {TErr CErr : Type}

/-- `LIVE` (R21). -/
def State.live (s : State TErr CErr) : Bool :=
  s.handle.isSome

/-- An instance at power-on, before any `CONSTRUCT` (R31 left column, R161). -/
def State.powerOn (cfg : Config) : State TErr CErr :=
  { cfg := cfg
    handle := none
    phase := .idle
    csCmd := Config.csCmdAtPowerOn
    frame := none
    res := none
    csPhys := Config.csPhysAtPowerOn
    trace := []
    returned := []
    inputs := []
    txAnswers := []
    csAnswers := []
    draws := 0 }

/-- The machine right after reset: a narrow instance (DESIGN CHOICE, log entry 3) with the default code table (R66) and
numbered error kinds (DESIGN CHOICE, log entry 5), at power-on. -/
def State.reset : State :=
  State.powerOn { variant := .narrow, pdCodes := PdCodes.decided }

end Sys2Proof.Machine
end

