-- ==== Sys2Proof/Machine/Flags.lean ====
section
/-! DEFINITION. The block has no flags and no condition codes: its only status is the result of one operation (10_state.md
R25). This file holds how that status is computed from the conditions an operation meets (60_exceptions.md R141, R145). -/

namespace Sys2Proof.Machine

variable {TErr CErr : Type}

/-- The answer that stands in an event (R12). -/
def lineEvent : LineAnswer CErr → CsAnswer CErr
  | .ok => .ok
  | .err c _ => .err c

/-- The physical level after a drive request for `level` (R28): the level asked for if the answer is `Ok`, otherwise
whatever the draw says (decision D9). -/
def lineLevel (level : Level) : LineAnswer CErr → Level
  | .ok => level
  | .err _ leaves => leaves

/-- The error conditions the block can meet (R141, the complete list). -/
inductive Condition (TErr : Type := Nat) (CErr : Type := Nat) where
  | eTx (e : TErr)
  | eCsInit (c : CErr)
  | eCsAssert (c : CErr)
  | eCsDeassert (c : CErr)
deriving DecidableEq, Repr

/-- What a condition is reported as (R141): the transport's own error value, unchanged, or nothing. -/
def Condition.reported : Condition TErr CErr → Option TErr
  | .eTx e => some e
  | .eCsInit _ => none
  | .eCsAssert _ => none
  | .eCsDeassert _ => none

/-- The condition a drive answer is, if any. -/
def lineCondition (mk : CErr → Condition TErr CErr) : CsAnswer CErr → Option (Condition TErr CErr)
  | .ok => none
  | .err c => some (mk c)

/-- The conditions one `PD` or `WT` meets, in time order: `E-CS-ASSERT`, `E-TX`, `E-CS-DEASSERT` (R145). -/
def commandConditions (assert : CsAnswer CErr) (r : TxAnswer TErr) (deassert : CsAnswer CErr) :
    List (Condition TErr CErr) :=
  (lineCondition .eCsAssert assert).toList
    ++ (match r with | .ok => [] | .err e => [.eTx e])
    ++ (lineCondition .eCsDeassert deassert).toList

/-- The condition a `CONSTRUCT` meets: `E-CS-INIT` or none (R141). -/
def constructConditions (drive : CsAnswer CErr) : List (Condition TErr CErr) :=
  (lineCondition .eCsInit drive).toList

/-- The result an operation that met these conditions reports: `E-TX` if it occurred, and nothing otherwise (R145). -/
def reportedResult (cs : List (Condition TErr CErr)) : TxAnswer TErr :=
  match cs.findSome? Condition.reported with
  | some e => .err e
  | none => .ok

end Sys2Proof.Machine
end

