-- ==== Sys2Proof/Machine/Operands.lean ====
section
/-! DEFINITION. Operand assembly: the byte formulas of 30_encoding.md R67 to R69 that the commands send, the same frames
as numbers (R70), whose laws R72 lists (stated in Obligations.EncoderLaws), and the serial order of a frame's bits (20_memory.md R45). -/

namespace Sys2Proof.Machine

variable {TErr CErr : Type}

/-- `trunc_8` (R11). -/
def trunc8 {n : Nat} (v : BitVec n) : Byte := v.setWidth 8

/-- Byte 0 of a power-down frame, both variants: `0x80 | (zext_8(PD_CODE(mode)) << 2)` (R67). Bits 7:6 are `0b10`, bits 5:2 the
code, bits 1:0 zero (R72). -/
def pdByte0 (c : Code) : Byte := 0x80#8 ||| (c.setWidth 8 <<< 2)

/-- The frame of `PD.N` (R100); all trailing bytes are zero (R72). -/
def pdFrameN (c : Code) : List Byte := [pdByte0 c, 0x00#8]

/-- The frame of `PD.W` (R101); all trailing bytes are zero (R72). -/
def pdFrameW (c : Code) : List Byte := [pdByte0 c, 0x00#8, 0x00#8]

/-- The frame of `WT.N` (R68, R110). The mask keeps `value[15:14]` out of the selector; `byte0[5:0] ++ byte1` is
`value & 0x3FFF` (R72). -/
def wtFrameN (v : Value) : List Byte :=
  [0x40#8 ||| (trunc8 (v >>> 8) &&& 0x3F#8), trunc8 v]

/-- The frame of `WT.W` (R69, R111). The shifts are logical; `byte0[5:0] ++ byte1 ++ byte2[7:6]` is `value` and `byte2[5:0]`
is zero (R72). -/
def wtFrameW (v : Value) : List Byte :=
  [0x40#8 ||| trunc8 (v >>> 10), trunc8 (v >>> 2), trunc8 (v &&& 0x0003#16) <<< 6]

/-- The frame the meaning of a command sends. A power-down frame is never a write-through frame (R72). -/
def frameOf (p : PdCodes) : Instr → List Byte
  | .pdN m => pdFrameN (p.code m)
  | .wtN v => wtFrameN v
  | .pdW m => pdFrameW (p.code m)
  | .wtW v => wtFrameW v

/-- A frame as one number, byte 0 most significant (R10: `F16`, `F24`). -/
def frameNumber (bytes : List Byte) : Nat :=
  bytes.foldl (fun n b => n * 256 + b.toNat) 0

/-- The bits of one byte in the order they go on the wire: bit 7 first (R45). -/
def serialByte (b : Byte) : List Bool :=
  [b.getLsbD 7, b.getLsbD 6, b.getLsbD 5, b.getLsbD 4, b.getLsbD 3, b.getLsbD 2, b.getLsbD 1, b.getLsbD 0]

/-- The bits of a frame in the order they go on the wire: byte 0 first (R44), and each byte most significant bit first
(R45). A requirement on the transport; no step uses it. -/
def serialBits (bytes : List Byte) : List Bool :=
  bytes.flatMap serialByte

/-- The bits that may have reached the DAC for a write that has been answered. After an error: any prefix of the frame's
bits, from none to all (R49, decision D10). After `Ok`: the whole frame and nothing else. DESIGN CHOICE (unsafe, log entry
22): R51 leaves to the transport whether an answered write has finished on the wire, and R49 and D10 speak of failed
writes only. No step uses it. -/
def wireMayCarry (bytes : List Byte) (answer : TxAnswer TErr) (bits : List Bool) : Prop :=
  match answer with
  | .ok => bits = serialBits bytes
  | .err _ => bits <+: serialBits bytes

end Sys2Proof.Machine
end

