-- ==== Sys2Proof/Machine/Ops.lean ====
section
/-! DEFINITION. The named operations every meaning is built from: one drive request on the control line, one answered write
on the transport, a return on the command interface, and the admission test of 60_exceptions.md R149. There is no taking
of an exception and no return from one: the block has no traps (R140, R147). -/

namespace Sys2Proof.Machine

variable {TErr CErr : Type}

/-- The outcome of an operation or a step. -/
abbrev Result (TErr : Type := Nat) (CErr : Type := Nat) := Host.Outcome (State TErr CErr) Fault Refusal

/-- What the control line does with the `k`-th drive request from now (0 is the next): the scripted answer, or the free
one (R42, decision D11). -/
def State.lineAnswer (s : State TErr CErr) (k : Nat) : LineAnswer CErr :=
  (s.csAnswers[k]?).getD (Config.freeLine (s.draws + k))

/-- `CsSet(level)` and `CS_CMD <- level`: one drive request, answered, its answer discarded by the block (R42, R142). The
answer stands in the event and decides `CS_PHYS` only (R28). -/
def State.csSet (level : Level) (s : State TErr CErr) : State TErr CErr :=
  { s with
    csCmd := level
    csPhys := lineLevel level (s.lineAnswer 0)
    trace := s.trace ++ [.cs level (lineEvent (s.lineAnswer 0))]
    csAnswers := s.csAnswers.tail
    draws := s.draws + 1 }

/-- The transport has answered the outstanding write of `bytes` with `r` (R43). -/
def State.txAnswered (bytes : List Byte) (r : TxAnswer TErr) (s : State TErr CErr) : State TErr CErr :=
  { s with
    txAnswers := s.txAnswers.tail
    trace := s.trace ++ [.wr bytes r] }

/-- An answer on the command interface (R41). -/
def State.giveBack (r : Return TErr) (s : State TErr CErr) : State TErr CErr :=
  { s with returned := s.returned ++ [r] }

/-- The admission test of `PD`, `WT` and `DESTROY` (R149): the refusal, if the operation is not admitted. -/
def State.notAdmitted (s : State TErr CErr) : Option Refusal :=
  if s.live then
    if s.phase = .idle then none else some .busy
  else some .noHandle

/-- The admission test of `CONSTRUCT` (R90, R149). -/
def State.constructNotAdmitted (s : State TErr CErr) : Option Refusal :=
  if s.live then some .alreadyLive
  else if s.phase = .idle then none else some .busy

end Sys2Proof.Machine
end

