-- ==== Sys2Proof/Machine/Framer.lean ====
section
/-! DEFINITION. The transfer framer (43_transfer_framer.md): `SEND` in one piece (R120), which the four commands use, and the
same sequence one step at a time (R121 to R125), which carries on an operation that is in progress. -/

namespace Sys2Proof.Machine

variable {TErr CErr : Type}

/-- `SEND frame` in one piece (R120): assert, one write of the whole frame, deassert whatever the transport answered,
return that answer. If the transport never answers, `SEND` never gets past the write: the state is the stuck one of R129.
On return `FRAME` and `RES` are no longer meaningful (R131; log entry 11). -/
def send (f : List Byte) (s : State TErr CErr) : State TErr CErr :=
  let asserted := ({ s with frame := some f } : State TErr CErr).csSet .low
  match s.txAnswers with
  | [] => { asserted with phase := .transferring }
  | r :: _ =>
    let deasserted := (asserted.txAnswered f r).csSet .high
    ({ deasserted with phase := .idle, frame := none, res := none } : State TErr CErr).giveBack (.result r)

/-- Step `IDLE → ASSERTING` (R122): the frame is complete, then `CsSet(LOW)`. -/
def assertStep (f : List Byte) (s : State TErr CErr) : State TErr CErr :=
  { ({ s with frame := some f } : State TErr CErr).csSet .low with phase := .asserting }

/-- Step `ASSERTING → TRANSFERRING` (R123): the drive's answer is discarded; the write request of `FRAME` is outstanding. -/
def transferStep (s : State TErr CErr) : State TErr CErr :=
  { s with phase := .transferring }

/-- Step `TRANSFERRING → DEASSERTING` (R124) once the transport has answered `r`: `RES <- r`, then `CsSet(HIGH)`, for
`Ok` and `Err(e)` alike. -/
def deassertStep (r : TxAnswer TErr) (s : State TErr CErr) : State TErr CErr :=
  let answered := match s.frame with
    | some f => s.txAnswered f r
    | none => { s with txAnswers := s.txAnswers.tail }
  { ({ answered with res := some r } : State TErr CErr).csSet .high with phase := .deasserting }

/-- Step `DEASSERTING → IDLE` (R125): `RES` is returned on the command interface. -/
def finishStep (s : State TErr CErr) : State TErr CErr :=
  let returned := match s.res with
    | some r => s.giveBack (.result r)
    | none => s
  { returned with phase := .idle, frame := none, res := none }

/-- One step of the framer on its own. In `IDLE` it waits for the host (R160). In `TRANSFERRING` with no answer from the
transport no step is enabled, and the state stays as it is (R129). -/
def framerStep (s : State TErr CErr) : State TErr CErr :=
  match s.phase with
  | .idle => s
  | .asserting => transferStep s
  | .transferring =>
    match s.txAnswers with
    | [] => s
    | r :: _ => deassertStep r s
  | .deasserting => finishStep s

/-- `n` steps of the framer on its own. -/
def framerSteps : Nat → State TErr CErr → State TErr CErr
  | 0, s => s
  | n + 1, s => framerSteps n (framerStep s)

/-- A command of variant `v` with frame `f` (R100, R101, R110, R111): refused on the other variant (log entry 15) and
where R149 refuses it, otherwise sent. -/
def command (v : Variant) (f : List Byte) (s : State TErr CErr) : Result TErr CErr :=
  if s.cfg.variant = v then
    match s.notAdmitted with
    | some r => .refused r
    | none => .next (send f s)
  else .refused .otherVariant

end Sys2Proof.Machine
end

