-- ==== Sys2Proof/Machine/PowerDown.lean ====
section
/-! DEFINITION. The power-down commands (41_power_down.md). Neither changes any state of the block that outlasts the call
(R102). -/

namespace Sys2Proof.Machine

variable {TErr CErr : Type}

/-- `PD.N mode` (R100). -/
def execPdN (mode : Mode) (s : State TErr CErr) : Result TErr CErr :=
  command .narrow (pdFrameN (s.cfg.pdCodes.code mode)) s

/-- `PD.W mode` (R101). -/
def execPdW (mode : Mode) (s : State TErr CErr) : Result TErr CErr :=
  command .wide (pdFrameW (s.cfg.pdCodes.code mode)) s

end Sys2Proof.Machine
end

