-- ==== Sys2Proof/Machine/WriteThrough.lean ====
section
/-! DEFINITION. The write-through commands (42_write_through.md). There is no range error: what does not fit is silently
dropped (R113). -/

namespace Sys2Proof.Machine

variable {TErr CErr : Type}

/-- `WT.N value` (R110). -/
def execWtN (value : Value) (s : State TErr CErr) : Result TErr CErr :=
  command .narrow (wtFrameN value) s

/-- `WT.W value` (R111). -/
def execWtW (value : Value) (s : State TErr CErr) : Result TErr CErr :=
  command .wide (wtFrameW value) s

end Sys2Proof.Machine
end

