-- ==== Sys2Proof/Machine/Dispatch.lean ====
section
/-! DEFINITION. The dispatch of the four instructions of spec/opcode_table.json to their meanings. -/

namespace Sys2Proof.Machine

def exec (i : Instr) (s : State) : Host.Outcome State Fault Refusal :=
  match i with
  | .pdN mode => Sys2Proof.Machine.execPdN mode s
  | .wtN value => Sys2Proof.Machine.execWtN value s
  | .pdW mode => Sys2Proof.Machine.execPdW mode s
  | .wtW value => Sys2Proof.Machine.execWtW value s

end Sys2Proof.Machine
end

