-- ==== Sys2Proof/Machine/HandleOps.lean ====
section
/-! DEFINITION. The device handle operations (40_device_handle.md): they have no frame and no row in the opcode table (R76). -/

namespace Sys2Proof.Machine

variable {TErr CErr : Type}

/-- The effect of `CONSTRUCT` (R90): take both resources, drive the line high once (answer discarded), `LIVE <- 1`. -/
def construct (transport : TransportToken) (line : LineToken) (s : State TErr CErr) : State TErr CErr :=
  let driven := s.csSet .high
  ({ driven with handle := some { transport := transport, line := line }, phase := .idle } : State TErr CErr).giveBack
    .constructed

/-- `CONSTRUCT(transport, control_line)`, admitted when `LIVE = 0` (R90, R149). -/
def execConstruct (transport : TransportToken) (line : LineToken) (s : State TErr CErr) : Result TErr CErr :=
  match s.constructNotAdmitted with
  | some r => .refused r
  | none => .next (construct transport line s)

/-- `DESTROY`, admitted when `LIVE = 1` and `PHASE = IDLE` (R91, R149): `LIVE <- 0`, both resources returned, no event. -/
def execDestroy (s : State TErr CErr) : Result TErr CErr :=
  match s.notAdmitted, s.handle with
  | some r, _ => .refused r
  | none, some h => .next (({ s with handle := none } : State TErr CErr).giveBack (.resources h.transport h.line))
  | none, none => .refused .noHandle

end Sys2Proof.Machine
end

