-- ==== Sys2Proof/Machine/HostInterface.lean ====
section
/-! DEFINITION. The command interface `IF-CMD` (20_memory.md R41): which instruction an operation is on which variant, what a
presented operation does, what a step does with the next input, the environment's own moves, host programs (30_encoding.md
R77), and the placing of one instruction for the next step. -/

namespace Sys2Proof.Machine

variable {TErr CErr : Type}

/-- The instruction a host operation is on an instance of variant `v` (R13, R41). `CONSTRUCT` and `DESTROY` have none (R76). -/
def HostOp.instr (v : Variant) : HostOp → Option Instr
  | .construct _ _ => none
  | .destroy => none
  | .pd m => some (match v with | .narrow => .pdN m | .wide => .pdW m)
  | .wt x => some (match v with | .narrow => .wtN x | .wide => .wtW x)

/-- The host operation an instruction is. -/
def opOf : Instr → HostOp
  | .pdN m => .pd m
  | .wtN x => .wt x
  | .pdW m => .pd m
  | .wtW x => .wt x

/-- A presented operation, for any types of error kinds; a command is the meaning `exec` dispatches its instruction to
(`perform_command`). The operand is read now, once (R53, decision D12). -/
def perform (op : HostOp) (s : State TErr CErr) : Result TErr CErr :=
  match op with
  | .construct t l => execConstruct t l s
  | .destroy => execDestroy s
  | .pd m => match s.cfg.variant with
    | .narrow => execPdN m s
    | .wide => execPdW m s
  | .wt x => match s.cfg.variant with
    | .narrow => execWtN x s
    | .wide => execWtW x s

/-- One step. With nothing presented, the framer carries on (in `IDLE` it waits, R160). An operation that waits its turn
is taken in `IDLE`; until then the framer carries on. Misuse is refused (R149, R93); while no handle owns the resources,
others may use them (R31, R91 a), and of that only the physical level is the model's concern. -/
def stepOn (s : State TErr CErr) : Result TErr CErr :=
  match s.inputs with
  | [] => .next (framerStep s)
  | .call op :: rest =>
    if s.phase = .idle then perform op { s with inputs := rest } else .next (framerStep s)
  | .overlapping _ :: _ => .refused .busy
  | .contended _ _ :: _ => .refused .contended
  | .outsideDrive level :: rest =>
    if s.live then .refused .notExclusive else .next { s with inputs := rest, csPhys := level }
  | .outsideWrite _ :: rest =>
    if s.live then .refused .notExclusive else .next { s with inputs := rest }

/-- The outside adds an input at the end of what is to come. -/
def State.present (i : Input) (s : State TErr CErr) : State TErr CErr :=
  { s with inputs := s.inputs ++ [i] }

/-- The transport will answer one more request, with `r`; if it was silent, this is the answer it was waited for. -/
def State.transportAnswers (r : TxAnswer TErr) (s : State TErr CErr) : State TErr CErr :=
  { s with txAnswers := s.txAnswers ++ [r] }

/-- What a line of a host program states of the transport (R77). -/
inductive TxStated (TErr : Type := Nat) where
  /-- No `->`: the transport answers `Ok`, as in the programs and traces of 95_test_vectors.md (DEDUCED, log entry 31). -/
  | unstated
  /-- `-> Ok` or `-> Err(e)`. -/
  | answers (r : TxAnswer TErr)
  /-- "the transport never answers" (95_test_vectors.md P6). -/
  | never
deriving DecidableEq, Repr

/-- One line of a host program (R77): the operation, and the answers stated beside it, `->` for the transport and `cs:` for
the control line. -/
structure Line (TErr : Type := Nat) (CErr : Type := Nat) where
  op : HostOp
  tx : TxStated TErr := .unstated
  cs : List (LineAnswer CErr) := []
deriving DecidableEq, Repr

/-- A host program (R77): the variant named at the top, and the lines. -/
structure Program (TErr : Type := Nat) (CErr : Type := Nat) where
  variant : Variant
  lines   : List (Line TErr CErr)
deriving DecidableEq, Repr

/-- The operation sends a frame. -/
def HostOp.isCommand : HostOp → Bool
  | .construct _ _ => false
  | .destroy => false
  | .pd _ => true
  | .wt _ => true

/-- How many drive requests an operation issues when it completes (R90, R91, R120). -/
def HostOp.drives : HostOp → Nat
  | .construct _ _ => 1
  | .destroy => 0
  | .pd _ => 2
  | .wt _ => 2

/-- The transport's answer a line gives; `none` is silence. -/
def Line.txAnswer? (l : Line TErr CErr) : Option (TxAnswer TErr) :=
  match l.tx with
  | .unstated => some .ok
  | .answers r => some r
  | .never => none

/-- The control line's answer to the `k`-th drive request of a line's operation: the stated one, and where `cs:` is absent or
shorter than that, `Ok` (log entry 31). -/
def Line.csAnswer (l : Line TErr CErr) (k : Nat) : LineAnswer CErr :=
  (l.cs[k]?).getD .ok

/-- The answers to a line's own drive requests: one for each, so that no line takes another line's. -/
def Line.csAnswers (l : Line TErr CErr) : List (LineAnswer CErr) :=
  (List.range l.op.drives).map l.csAnswer

/-- The transport's answers a program gives, up to the first command that is never answered. -/
def lineAnswers : List (Line TErr CErr) → List (TxAnswer TErr)
  | [] => []
  | l :: rest =>
    if l.op.isCommand then
      match l.txAnswer? with
      | some r => r :: lineAnswers rest
      | none => []
    else lineAnswers rest

/-- An instance of the program's variant, with the codes `codes`, at power-on with the host program and its environment in
place (R77; log entries 18 and 31). -/
def loadProgram (codes : PdCodes) (p : Program TErr CErr) : State TErr CErr :=
  { State.powerOn { variant := p.variant, pdCodes := codes } with
    inputs := p.lines.map fun l => .call l.op
    txAnswers := lineAnswers p.lines
    csAnswers := p.lines.flatMap Line.csAnswers }

/-- `s` with a live, idle handle: as it is where it has one, otherwise after a `CONSTRUCT`; an operation in progress is
given up. Outside the machine: part of placing an instruction (log entry 18). -/
def readied (s : State TErr CErr) : State TErr CErr :=
  match s.phase with
  | .idle => if s.live then s else construct 0 0 s
  | _ =>
    let quiet : State TErr CErr := { s with phase := .idle, csCmd := .high, frame := none, res := none }
    if s.live then quiet else construct 0 0 quiet

/-- `s` with the command `i` as the next operation presented, on an instance of its variant that is live and idle, with
an answer of the transport to come (log entry 18). -/
def place (i : Instr) (s : State TErr CErr) : State TErr CErr :=
  { readied s with
    cfg := { s.cfg with variant := i.variant }
    inputs := .call (opOf i) :: s.inputs
    txAnswers := match s.txAnswers with | [] => [.ok] | r :: rest => r :: rest }

/-- `place` for the instruction a word of the opcode table is. A word that is no frame is no operation, so nothing is
presented (R73, R75, R78; log entry 18). -/
def placeWord (nbits w : Nat) (s : State TErr CErr) : State TErr CErr :=
  match decodeTableWord nbits w with
  | some i => place i s
  | none => { s with inputs := [] }

end Sys2Proof.Machine
end

