-- ==== Sys2Proof/Machine/Step.lean ====
section
/-! DEFINITION. One step of the machine, and the placing of the instruction the next step runs. -/

namespace Sys2Proof.Machine

/-- One step (20_memory.md R55): a whole operation where one is presented to an idle block (43_transfer_framer.md R120),
one step of the framer where an operation is in progress (R122 to R125). -/
def step (s : State) : Host.Outcome State Fault Refusal :=
  stepOn s

/-- `s` with the instruction whose frame is the number `w` of `nbits` bits as what the next step runs. The block fetches
nothing (R22, R53): the instruction is placed as the next operation of the command interface (log entry 18). -/
def State.withFetchWord (s : State) (nbits w : Nat) : State :=
  placeWord nbits w s

end Sys2Proof.Machine
end

