-- ==== Sys2Proof/Safety.lean ====
section
/-! DEFINITION. The terms claims are made in: the shape of a trace, the invariants of a state, what two states have in
common, the premises about the environment, and the grammar of host programs. No step uses any of it. -/

namespace Sys2Proof.Machine

variable {TErr CErr : Type}

/-! ## Outcomes -/

/-- The next state of an outcome, if there is one. -/
def nextOf : Result TErr CErr → Option (State TErr CErr)
  | .next s => some s
  | .fault _ => none
  | .refused _ => none

/-- The refusal of an outcome, if it is one. -/
def refusalOf : Result TErr CErr → Option Refusal
  | .next _ => none
  | .fault _ => none
  | .refused r => some r

/-- An outcome with its next state changed. -/
def mapNext {TErr' CErr' : Type} (f : State TErr CErr → State TErr' CErr') : Result TErr CErr → Result TErr' CErr'
  | .next s => .next (f s)
  | .fault x => .fault x
  | .refused r => .refused r

/-- The outcome is a refusal. -/
def Refuses (o : Result TErr CErr) : Prop := ∃ r, o = .refused r

/-! ## Frames and traces -/

/-- A byte list a transfer may carry: exactly `FRAME_BYTES` bytes, the first of them with selector `0b10` or `0b01`
(95_test_vectors.md section 4, invariant 4). -/
def legalFrame (v : Variant) (bytes : List Byte) : Bool :=
  decide (bytes.length = v.frameBytes) &&
    match bytes with
    | [] => false
    | b :: _ => decide (selOf b = selPd) || decide (selOf b = selWt)

/-- A request on an outward interface (R42, R43): an event without the answer. -/
inductive Request where
  | csSet (level : Level)
  | txWrite (bytes : List Byte)
deriving DecidableEq, Repr

/-- The request of an event. -/
def Event.request : Event TErr CErr → Request
  | .cs level _ => .csSet level
  | .wr bytes _ => .txWrite bytes

/-- The transport's answer in an event, if it is a write. -/
def Event.txAnswer? : Event TErr CErr → Option (TxAnswer TErr)
  | .cs _ _ => none
  | .wr _ r => some r

/-- The control line's answer in an event, if it is a drive. -/
def Event.csAnswer? : Event TErr CErr → Option (CsAnswer CErr)
  | .cs _ a => some a
  | .wr _ _ => none

/-- The event is a drive request for this level. -/
def Event.drives (level : Level) : Event TErr CErr → Bool
  | .cs l _ => decide (l = level)
  | .wr _ _ => false

/-- The result in an answer of the command interface, if it is one. -/
def Return.result? : Return TErr → Option (TxAnswer TErr)
  | .constructed => none
  | .resources _ _ => none
  | .result r => some r

/-- The answer is the completion of a `CONSTRUCT`. -/
def Return.isConstructed : Return TErr → Bool
  | .constructed => true
  | .resources _ _ => false
  | .result _ => false

/-- Where the control line stands in a trace that has the shape of 95_test_vectors.md section 4, invariant 1. -/
inductive Bus where
  /-- No event yet. -/
  | undriven
  /-- The last event is `CS(HIGH)`. -/
  | high
  /-- The last event is `CS(LOW)`: a write is due or outstanding. -/
  | low
  /-- The last event is an answered write: `CS(HIGH)` is due. -/
  | written
deriving DecidableEq, Repr

/-- One more event of a trace `( CS(HIGH) ( CS(LOW) WR(f) CS(HIGH) )* )*`, each `f` legal; `none` where the event does not
fit. -/
def Bus.after (v : Variant) : Bus → Event TErr CErr → Option Bus
  | .undriven, .cs .high _ => some .high
  | .high, .cs .high _ => some .high
  | .high, .cs .low _ => some .low
  | .low, .wr f _ => if legalFrame v f then some .written else none
  | .written, .cs .high _ => some .high
  | _, _ => none

/-- Where the line stands after a whole trace, if the trace has the shape. -/
def busAfter (v : Variant) (trace : List (Event TErr CErr)) : Option Bus :=
  trace.foldlM (Bus.after v) .undriven

/-! ## Invariants -/

/-- What holds of the five elements of R20 in every state a run reaches. -/
structure State.BlockInv (s : State TErr CErr) : Prop where
  /-- An operation is in progress only while a handle exists (R122). -/
  busy_live : s.phase ≠ .idle → s.live = true
  /-- Once a drive request has been issued, `CS_CMD = LOW` exactly while `PHASE` is `ASSERTING` or `TRANSFERRING` (R32;
  after `DESTROY` it stays `HIGH`, R31). -/
  line_level : s.live = true ∨ s.trace ≠ [] →
    (s.csCmd = .low ↔ s.phase = .asserting ∨ s.phase = .transferring)
  /-- `FRAME` is meaningful exactly while an operation is in progress (R24), and then is a frame of the variant (R46). -/
  frame_held : match s.frame with
    | none => s.phase = .idle
    | some f => s.phase ≠ .idle ∧ legalFrame s.cfg.variant f = true
  /-- `RES` is meaningful exactly from the transport's answer to the return (R25). -/
  res_held : s.res.isSome = true ↔ s.phase = .deasserting

/-- The trace has the shape of 95_test_vectors.md section 4, invariants 1 to 4, and its end agrees with `PHASE` and `LIVE`. -/
def State.TraceInv (s : State TErr CErr) : Prop :=
  match busAfter s.cfg.variant s.trace with
  | none => False
  | some .undriven => s.phase = .idle ∧ s.live = false
  | some .high => s.phase = .idle ∨ s.phase = .deasserting
  | some .low => s.phase = .asserting ∨ s.phase = .transferring
  | some .written => False

/-- The results returned so far, and after them the one that is held in `RES`, are the answers of the writes, in order
(95_test_vectors.md section 4, invariant 6); the assertions are the writes answered and the one due or outstanding; the
deassertions are the constructions and the writes answered (invariant 5). -/
structure State.CountInv (s : State TErr CErr) : Prop where
  results : s.returned.filterMap Return.result? ++ s.res.toList = s.trace.filterMap Event.txAnswer?
  lows : (s.trace.filter (Event.drives .low)).length =
    (s.trace.filterMap Event.txAnswer?).length + (if s.phase = .asserting ∨ s.phase = .transferring then 1 else 0)
  highs : (s.trace.filter (Event.drives .high)).length =
    (s.returned.filter Return.isConstructed).length + (s.trace.filterMap Event.txAnswer?).length

/-- While the handle owns the line, and if the last drive request was answered `Ok`, the physical level is the commanded
one (R28, R93). -/
def State.PhysInv (s : State TErr CErr) : Prop :=
  s.live = true → (s.trace.filterMap Event.csAnswer?).getLast? = some .ok → s.csPhys = s.csCmd

/-! ## The states a command ends in -/

/-- The state after a completed transfer of `bytes` that the transport answered with `r`, begun in the idle state `s`,
written out (R120): three events, one result, the line commanded high, and every other field as it was. -/
def State.afterTransfer (bytes : List Byte) (r : TxAnswer TErr) (s : State TErr CErr) : State TErr CErr :=
  { s with
    phase := .idle
    csCmd := .high
    frame := none
    res := none
    csPhys := lineLevel .high (s.lineAnswer 1)
    trace := s.trace ++ [.cs .low (lineEvent (s.lineAnswer 0)), .wr bytes r, .cs .high (lineEvent (s.lineAnswer 1))]
    returned := s.returned ++ [.result r]
    txAnswers := s.txAnswers.drop 1
    csAnswers := s.csAnswers.drop 2
    draws := s.draws + 2 }

/-- The state in which the transport has been asked to write `bytes` and never answers, written out (R129): one event, no
result, the line commanded low, and every other field as it was. -/
def State.awaitingTransport (bytes : List Byte) (s : State TErr CErr) : State TErr CErr :=
  { s with
    phase := .transferring
    csCmd := .low
    frame := some bytes
    csPhys := lineLevel .low (s.lineAnswer 0)
    trace := s.trace ++ [.cs .low (lineEvent (s.lineAnswer 0))]
    csAnswers := s.csAnswers.drop 1
    draws := s.draws + 1 }

/-! ## What two states have in common -/

/-- The five elements of R20 and the parameters: everything that is hardware, without the ghosts and the outside. -/
structure Hardware (TErr : Type := Nat) where
  cfg    : Config
  handle : Option Handle
  phase  : Phase
  csCmd  : Level
  frame  : Option (List Byte)
  res    : Option (TxAnswer TErr)
deriving DecidableEq, Repr

/-- The hardware part of a state. -/
def State.hardware (s : State TErr CErr) : Hardware TErr :=
  { cfg := s.cfg, handle := s.handle, phase := s.phase, csCmd := s.csCmd, frame := s.frame, res := s.res }

/-- An event without the control line's answer. -/
def Event.lineBlind : Event TErr CErr → Event TErr CErr
  | .cs level _ => .cs level .ok
  | .wr bytes r => .wr bytes r

/-- A state without anything the control line answers: its coming answers, the answers in the trace, and the physical
level. -/
def State.lineBlind (s : State TErr CErr) : State TErr CErr :=
  { s with csPhys := .high, csAnswers := [], draws := 0, trace := s.trace.map Event.lineBlind }

/-! ### Renaming error kinds: from any two types of them to any other two (R8, decision D17) -/

section Renaming

variable {TErr' CErr' : Type} (f : TErr → TErr') (g : CErr → CErr')

/-- A transport answer with its error kind renamed. -/
def renameTx : TxAnswer TErr → TxAnswer TErr'
  | .ok => .ok
  | .err e => .err (f e)

/-- A control-line answer with its error kind renamed. -/
def renameCs : CsAnswer CErr → CsAnswer CErr'
  | .ok => .ok
  | .err c => .err (g c)

/-- What the control-line driver does, with its error kind renamed. -/
def renameLine : LineAnswer CErr → LineAnswer CErr'
  | .ok => .ok
  | .err c leaves => .err (g c) leaves

/-- An event with the error kind of its answer renamed. -/
def Event.rename : Event TErr CErr → Event TErr' CErr'
  | .cs level a => .cs level (renameCs g a)
  | .wr bytes r => .wr bytes (renameTx f r)

/-- An answer of the command interface with its error kind renamed. -/
def Return.rename : Return TErr → Return TErr'
  | .constructed => .constructed
  | .resources t l => .resources t l
  | .result r => .result (renameTx f r)

/-- A state with every error kind in it renamed. -/
def State.rename (s : State TErr CErr) : State TErr' CErr' :=
  { cfg := s.cfg
    handle := s.handle
    phase := s.phase
    csCmd := s.csCmd
    frame := s.frame
    res := s.res.map (renameTx f)
    csPhys := s.csPhys
    trace := s.trace.map (Event.rename f g)
    returned := s.returned.map (Return.rename f)
    inputs := s.inputs
    txAnswers := s.txAnswers.map (renameTx f)
    csAnswers := s.csAnswers.map (renameLine g)
    draws := s.draws }

end Renaming

/-! ## Premises and programs -/

/-- A command may be presented now (R149): a live handle, and no operation in progress. -/
def State.Ready (s : State TErr CErr) : Prop :=
  s.live = true ∧ s.phase = .idle

/-- The operation may be presented now (R149): no other is in progress, and there is a handle, or for `CONSTRUCT` none. -/
def HostOp.Admitted (s : State TErr CErr) : HostOp → Prop
  | .construct _ _ => s.phase = .idle ∧ s.live = false
  | .destroy => s.phase = .idle ∧ s.live = true
  | .pd _ => s.phase = .idle ∧ s.live = true
  | .wt _ => s.phase = .idle ∧ s.live = true

/-- No misuse is next: nothing is presented, or an operation that waits its turn (R148: one host, one operation at a time,
no other user). -/
def State.WellUsed (s : State TErr CErr) : Prop :=
  ∀ i ∈ s.inputs, ∃ op, i = Input.call op

/-- The host presents the operations `ops`, one after another, and nothing else happens outside; the transport answers
every request they make (`TX_ANSWERS`, R173). -/
def State.Runs (s : State TErr CErr) (ops : List HostOp) : Prop :=
  s.phase = .idle ∧ s.inputs = ops.map Input.call ∧ (ops.filter HostOp.isCommand).length ≤ s.txAnswers.length

/-- The frame an operation sends on an instance with these parameters, if it is a command. -/
def HostOp.frame? (cfg : Config) (op : HostOp) : Option (List Byte) :=
  (op.instr cfg.variant).map (encode cfg.pdCodes)

/-- The events of a program's line when its operation completes (95_test_vectors.md section 3): the requests of the
operation, each with the answer the line gives it. -/
def Line.events (cfg : Config) (l : Line TErr CErr) : List (Event TErr CErr) :=
  match l.op with
  | .construct _ _ => [.cs .high (lineEvent (l.csAnswer 0))]
  | .destroy => []
  | .pd _ | .wt _ =>
    match l.op.frame? cfg, l.txAnswer? with
    | some f, some r => [.cs .low (lineEvent (l.csAnswer 0)), .wr f r, .cs .high (lineEvent (l.csAnswer 1))]
    | _, _ => []

/-- The requests one operation issues when it completes (R50, R90, R91). -/
def HostOp.requests (cfg : Config) : HostOp → List Request
  | .construct _ _ => [.csSet .high]
  | .destroy => []
  | .pd m => match cfg.variant with
    | .narrow => [.csSet .low, .txWrite (encode cfg.pdCodes (.pdN m)), .csSet .high]
    | .wide => [.csSet .low, .txWrite (encode cfg.pdCodes (.pdW m)), .csSet .high]
  | .wt x => match cfg.variant with
    | .narrow => [.csSet .low, .txWrite (encode cfg.pdCodes (.wtN x)), .csSet .high]
    | .wide => [.csSet .low, .txWrite (encode cfg.pdCodes (.wtW x)), .csSet .high]

/-- One life of a handle: `CONSTRUCT ( PD | WT )* DESTROY` (R92). -/
structure Session where
  transport : TransportToken
  line      : LineToken
  commands  : List HostOp
deriving DecidableEq, Repr

/-- The operations of a handle's life up to its last command. -/
def Session.opening (x : Session) : List HostOp :=
  .construct x.transport x.line :: x.commands

/-- The grammar of admitted host programs, from no handle: `( CONSTRUCT ( PD | WT )* DESTROY )* [ CONSTRUCT ( PD | WT )* ]`
(R92). -/
def Lifecycle (ops : List HostOp) : Prop :=
  ∃ (done : List Session) (last : Option Session),
    (∀ x ∈ done ++ last.toList, ∀ op ∈ x.commands, op.isCommand = true) ∧
    ops = done.flatMap (fun x => x.opening ++ [.destroy]) ++ last.toList.flatMap Session.opening

end Sys2Proof.Machine
end

