-- ==== Sys2Proof/Certificates/Slice0/Obligations.lean ====
section
/-! DEFINITION. The statements for the provers. Each docstring names the rules of spec/ it formalises. -/

open Sys2Proof Sys2Proof.Machine

/-! ## The frame formats -/

/-- R60 to R66, R72: the decoder gives back the instruction a frame was made from, for every instruction of the instance's
variant and every legal code table; of a narrow value the frame carries bits 13:0 (R113), and an instruction that is
well-formed comes back as it was. -/
def Obligations.DecodeInvertsEncode : Prop :=
  ∀ (c : Config) (i : Instr), c.wf = true → i.variant = c.variant →
    decode c (encode c.pdCodes i) = .command i.canonical ∧ (i.wf = true → i.canonical = i)

/-- R73, R74, R75 (decision D13): the decoder accepts only the frames the encoder produces, each as a well-formed
instruction of the instance's variant; it answers `invalid` for every other byte list. -/
def Obligations.DecodeAcceptsOnlyProducedFrames : Prop :=
  ∀ (c : Config) (bytes : List Byte),
    (∀ i, decode c bytes = .command i → i.wfOn c.variant = true ∧ bytes = encode c.pdCodes i) ∧
    ((∀ i : Instr, i.variant = c.variant → bytes ≠ encode c.pdCodes i) → ∃ why, decode c bytes = .invalid why)

/-- R67 to R69 against R62 to R65: the shifts, masks and ORs the commands compute with put every bit where the format
tables put it, for every code table and every operand. -/
def Obligations.AssemblyJoinsTheFormatFields : Prop :=
  ∀ (p : PdCodes) (i : Instr), frameOf p i = encode p i

/-- R70: the four frames as whole numbers. -/
def Obligations.FramesAsWholeNumbers : Prop :=
  (∀ c : Code, frameNumber (pdFrameN c) = (0x8000#16 ||| (c.setWidth 16 <<< 10)).toNat) ∧
  (∀ c : Code, frameNumber (pdFrameW c) = (0x800000#24 ||| (c.setWidth 24 <<< 18)).toNat) ∧
  (∀ v : Value, frameNumber (wtFrameN v) = (0x4000#16 ||| (v &&& 0x3FFF#16)).toNat) ∧
  (∀ v : Value, frameNumber (wtFrameW v) = (0x400000#24 ||| (v.setWidth 24 <<< 6)).toNat)

/-- R72: the laws of the encoder, over all modes (any code) and all values. -/
def Obligations.EncoderLaws : Prop :=
  (∀ (p : PdCodes) (m : Mode),
    (∃ b, pdFrameN (p.code m) = [b, 0#8] ∧ pdFrameW (p.code m) = [b, 0#8, 0#8] ∧ b.extractLsb 7 6 = 0b10#2 ∧
      b.extractLsb 5 2 = p.code m ∧ b.extractLsb 1 0 = 0#2)) ∧
  (∀ v : Value, ∃ b0 b1, wtFrameN v = [b0, b1] ∧ b0.extractLsb 7 6 = 0b01#2 ∧
    ((b0 &&& 0x3F#8).setWidth 16 <<< 8 ||| b1.setWidth 16) = v &&& 0x3FFF#16) ∧
  (∀ v w : Value, wtFrameN v = wtFrameN w ↔ v &&& 0x3FFF#16 = w &&& 0x3FFF#16) ∧
  (∀ v : Value, ∃ b0 b1 b2, wtFrameW v = [b0, b1, b2] ∧ b0.extractLsb 7 6 = 0b01#2 ∧
    ((b0 &&& 0x3F#8).setWidth 16 <<< 10 ||| b1.setWidth 16 <<< 2 ||| (b2 >>> 6).setWidth 16) = v ∧
    b2 &&& 0x3F#8 = 0#8) ∧
  (∀ v w : Value, wtFrameW v = wtFrameW w → v = w) ∧
  (∀ (c : Code) (v : Value), pdFrameN c ≠ wtFrameN v ∧ pdFrameW c ≠ wtFrameW v)

/-- Words written out from the formats decode to the instructions they stand for, and three that no encoder produces do
not decode (R61 to R66, R73, R75; the codes of `HIZ` and `NORMAL` are decision D3, log entry 4). -/
def Obligations.WrittenOutWordsDecode : Prop :=
  decodeTableWord 16 0b1000110000000000 = some (.pdN .gnd1k) ∧
  decodeTableWord 16 0b0100001111111111 = some (.wtN 0x03FF#16) ∧
  decodeTableWord 24 0b100001000000000000000000 = some (.pdW .hiz) ∧
  decodeTableWord 24 0b011010101111001101000000 = some (.wtW 0xABCD#16) ∧
  decodeTableWord 16 0b1000110000000001 = none ∧
  decodeTableWord 24 0b010000000000000000100000 = none ∧
  decodeTableWord 16 0b1100000000000000 = none

/-- R66 with decision D3 (the spec's choice for `NORMAL`, `HIZ` and `GND100K`, log entry 4; `GND1K` is the source's): the
eight power-down frames under the default table. -/
def Obligations.PowerDownFramesOfTheDecidedTable : Prop :=
  [Mode.normal, .hiz, .gnd100k, .gnd1k].map (fun m => frameOf PdCodes.decided (.pdN m)) =
    [[0x80#8, 0x00#8], [0x84#8, 0x00#8], [0x88#8, 0x00#8], [0x8C#8, 0x00#8]] ∧
  [Mode.normal, .hiz, .gnd100k, .gnd1k].map (fun m => frameOf PdCodes.decided (.pdW m)) =
    [[0x80#8, 0x00#8, 0x00#8], [0x84#8, 0x00#8, 0x00#8], [0x88#8, 0x00#8, 0x00#8], [0x8C#8, 0x00#8, 0x00#8]]

/-- R8, R64, R65 (`DATA_BITS`, `DATA_LSB`; 90_conflicts.md C1, C2): bit `k` of the value is frame bit `DATA_LSB + k`, for each
of the low `DATA_BITS` bits: 14 in the narrow variant, all 16 in the wide. -/
def Obligations.ValueBitsStandAtDataLsb : Prop :=
  ∀ (value : Value) (k : Nat),
    (k < Variant.narrow.dataBits →
      (frameNumber (wtFrameN value)).testBit (Variant.narrow.dataLsb + k) = value.getLsbD k) ∧
    (k < Variant.wide.dataBits →
      (frameNumber (wtFrameW value)).testBit (Variant.wide.dataLsb + k) = value.getLsbD k)

/-- R10, R45, and for the order across bytes R44 with decision D19 (the spec's choice, log entry 22, DESIGN CHOICE: the order a
transport must use): on the wire, bit `k` of a frame is frame bit `FRAME_BITS - 1 - k`: the first bit is bit 7 of byte 0, the
last is bit 0 of the last byte; and the two selector bits are the first two. -/
def Obligations.SerialOrderIsMostSignificantFirst : Prop :=
  ∀ (v : Variant) (bytes : List Byte), bytes.length = v.frameBytes →
    (serialBits bytes).length = v.frameBits ∧
    (∀ k, k < v.frameBits →
      (serialBits bytes)[k]? = some ((frameNumber bytes).testBit (v.frameBits - 1 - k))) ∧
    (∀ b, bytes.head? = some b → (serialBits bytes).take 2 = [(selOf b).getLsbD 1, (selOf b).getLsbD 0])

/-- R49 (decision D10): after a write answered with an error the wire may have carried any prefix of the frame's bits, from
none to all, and nothing else. After a write answered `Ok` it has carried exactly the whole frame: that side is the MODEL'S
OWN CHOICE (DESIGN CHOICE, log entry 22), since R49 and D10 speak of failed writes only and R51 leaves to the transport
whether an answered write has finished on the wire. For any type of the transport's error kinds. -/
def Obligations.FailedWriteMayCarryAnyPrefix : Prop :=
  ∀ (TErr : Type) (v : Variant) (bytes : List Byte), bytes.length = v.frameBytes →
    (∀ bits, wireMayCarry bytes (.ok : TxAnswer TErr) bits ↔ bits = serialBits bytes) ∧
    ∀ e : TErr,
      (∀ n, n ≤ v.frameBits → ∃ bits, bits.length = n ∧ wireMayCarry bytes (.err e) bits) ∧
      (∀ bits, wireMayCarry bytes (.err e) bits →
        bits.length ≤ v.frameBits ∧ bits = (serialBits bytes).take bits.length)

/-! ## The four commands -/

/-- R100, R120: `PD.N` on a live, idle narrow instance sends its two bytes in one framed transfer and returns the
transport's answer, whatever that is and whatever the control line answers; every other field is unchanged. Where R149
does not admit it, it is refused. -/
def Obligations.PowerDownNarrowSendsItsFrame : Prop :=
  ∀ (mode : Mode) (s : State), s.cfg.variant = .narrow →
    (∀ r rest, s.Ready → s.txAnswers = r :: rest →
      exec (.pdN mode) s =
        .next (s.afterTransfer [0x80#8 ||| ((s.cfg.pdCodes.code mode).setWidth 8 <<< 2), 0x00#8] r)) ∧
    (¬ s.Ready → Refuses (exec (.pdN mode) s))

/-- R101, R120: `PD.W`, as `PD.N` with one more zero byte. -/
def Obligations.PowerDownWideSendsItsFrame : Prop :=
  ∀ (mode : Mode) (s : State), s.cfg.variant = .wide →
    (∀ r rest, s.Ready → s.txAnswers = r :: rest →
      exec (.pdW mode) s =
        .next (s.afterTransfer [0x80#8 ||| ((s.cfg.pdCodes.code mode).setWidth 8 <<< 2), 0x00#8, 0x00#8] r)) ∧
    (¬ s.Ready → Refuses (exec (.pdW mode) s))

/-- R110, R120: `WT.N` sends `[0x40 | (value >> 8) & 0x3F, value & 0xFF]` for every one of the 65536 values. -/
def Obligations.WriteThroughNarrowSendsItsFrame : Prop :=
  ∀ (value : Value) (s : State), s.cfg.variant = .narrow →
    (∀ r rest, s.Ready → s.txAnswers = r :: rest →
      exec (.wtN value) s =
        .next (s.afterTransfer [0x40#8 ||| ((value >>> 8).setWidth 8 &&& 0x3F#8), value.setWidth 8] r)) ∧
    (¬ s.Ready → Refuses (exec (.wtN value) s))

/-- R111, R120: `WT.W` sends `[0x40 | value >> 10, (value >> 2) & 0xFF, (value & 3) << 6]` for every value. -/
def Obligations.WriteThroughWideSendsItsFrame : Prop :=
  ∀ (value : Value) (s : State), s.cfg.variant = .wide →
    (∀ r rest, s.Ready → s.txAnswers = r :: rest →
      exec (.wtW value) s =
        .next (s.afterTransfer
          [0x40#8 ||| (value >>> 10).setWidth 8, (value >>> 2).setWidth 8, (value &&& 0x0003#16).setWidth 8 <<< 6] r)) ∧
    (¬ s.Ready → Refuses (exec (.wtW value) s))

/-- R2, R41 (the model's reading, log entry 15): a command of the other variant is refused; no instance has both. -/
def Obligations.OtherVariantCommandIsRefused : Prop :=
  ∀ (i : Instr) (s : State), i.variant ≠ s.cfg.variant → exec i s = .refused .otherVariant

/-- R113, R165, R72: on a narrow instance two values have the same effect exactly when they agree in bits 13:0 (the upper
two are silently dropped, and no value is refused); on a wide instance exactly when they are equal. -/
def Obligations.WriteThroughEffectDependsOnKeptBits : Prop :=
  ∀ (v w : Value) (s : State), s.Ready →
    (s.cfg.variant = .narrow →
      (exec (.wtN v) s = exec (.wtN w) s ↔ v &&& 0x3FFF#16 = w &&& 0x3FFF#16)) ∧
    (s.cfg.variant = .wide → (exec (.wtW v) s = exec (.wtW w) s ↔ v = w))

/-- R145, R141, R142: the result of a command is what its error conditions report: the transport's error if it occurred,
and nothing otherwise, whatever the control line answered to the two drives. -/
def Obligations.CommandReportsOnlyTheTransferError : Prop :=
  ∀ (i : Instr) (s : State) (r : TxAnswer) (rest : List TxAnswer),
    i.variant = s.cfg.variant → s.Ready → s.txAnswers = r :: rest →
    ∃ t a b bytes, exec i s = .next t ∧
      t.trace = s.trace ++ [.cs .low a, .wr bytes r, .cs .high b] ∧
      a = lineEvent (s.lineAnswer 0) ∧ b = lineEvent (s.lineAnswer 1) ∧
      t.returned = s.returned ++ [.result (reportedResult (commandConditions a r b))]

/-- R131, R146, R102: a command that returns, with `Ok` or with `Err`, leaves the hardware exactly as it was: nothing of it
is recorded, and what went wrong is not either. -/
def Obligations.ReturnedCommandLeavesHardwareAsItWas : Prop :=
  ∀ (i : Instr) (s : State), s.BlockInv → i.variant = s.cfg.variant → s.Ready → s.txAnswers ≠ [] →
    ∃ t, exec i s = .next t ∧ t.hardware = s.hardware

/-- R129, R168: where the transport never answers, a command ends in `TRANSFERRING` with the line commanded low, nothing
returned and the write outstanding, and the machine stays in exactly that state for ever. -/
def Obligations.SilentTransportLeavesCommandStuck : Prop :=
  ∀ (i : Instr) (s : State), i.variant = s.cfg.variant → s.Ready → s.WellUsed → s.txAnswers = [] →
    exec i s = .next (s.awaitingTransport (encode s.cfg.pdCodes i)) ∧
    ∀ n, core.run n (s.awaitingTransport (encode s.cfg.pdCodes i)) =
      .next (s.awaitingTransport (encode s.cfg.pdCodes i))

/-! ## The framer's state machine -/

/-- R122 to R125: the four arrows of the state machine, each with its event, its level and its phase. Which event and level
belong to which arrow is the spec's own assignment (R121, decision D8; log entry 17, DESIGN CHOICE), and so is that a
drive's answer stands in its event at once (the same entry, DEDUCED). -/
def Obligations.FramerTakesTheFourArrows : Prop :=
  (∀ (f : List Byte) (s : State), s.Ready →
    let t := assertStep f s
    t.phase = .asserting ∧ t.frame = some f ∧ t.csCmd = .low ∧ t.res = s.res ∧ t.returned = s.returned ∧
      t.trace = s.trace ++ [.cs .low (lineEvent (s.lineAnswer 0))]) ∧
  (∀ s : State, s.phase = .asserting → framerStep s = { s with phase := .transferring }) ∧
  (∀ (s : State) (f : List Byte) (r : TxAnswer) (rest : List TxAnswer),
    s.phase = .transferring → s.frame = some f → s.txAnswers = r :: rest →
    let t := framerStep s
    t.phase = .deasserting ∧ t.frame = some f ∧ t.csCmd = .high ∧ t.res = some r ∧ t.returned = s.returned ∧
      t.txAnswers = rest ∧ t.trace = s.trace ++ [.wr f r, .cs .high (lineEvent (s.lineAnswer 0))]) ∧
  (∀ s : State, s.phase = .transferring → s.txAnswers = [] → framerStep s = s) ∧
  (∀ (s : State) (r : TxAnswer), s.phase = .deasserting → s.res = some r →
    framerStep s = { s with phase := .idle, frame := none, res := none, returned := s.returned ++ [.result r] })

/-- R130: from `IDLE`, the steps R122 to R125 taken in order give what `SEND` in one piece gives: the same trace, final
state and result for the same answers, and the same stuck state where the transport never answers; further framer steps
change nothing. -/
def Obligations.FramerStepsAreOneSend : Prop :=
  ∀ (f : List Byte) (s : State) (n : Nat), 3 ≤ n → framerSteps n (assertStep f s) = send f s

/-- R124, R129: an answer that comes late finds the command where it stopped, and two more steps end it as if the answer
had been there at once. -/
def Obligations.LateAnswerResumesTheCommand : Prop :=
  ∀ (f : List Byte) (s : State) (r : TxAnswer) (n : Nat), s.txAnswers = [] → 2 ≤ n →
    framerSteps n ((send f s).transportAnswers r) = send f (s.transportAnswers r)

/-- R173, R126, R145: if the transport answers, an operation that is in progress returns within three steps, exactly one
result being given back, with the line commanded high and the handle still live. -/
def Obligations.OperationInProgressReturns : Prop :=
  ∀ s : State, s.BlockInv → s.WellUsed → s.phase ≠ .idle → s.txAnswers ≠ [] →
    ∃ n ≤ 3, ∃ t r, core.run n s = .next t ∧ t.phase = .idle ∧ t.csCmd = .high ∧ t.live = true ∧
      t.returned = s.returned ++ [.result r]

/-! ## The device handle -/

/-- R90, R141: `CONSTRUCT` on a block with no handle takes both resources, commands the line high with exactly one event
and completes, whatever the control line answers (`E-CS-INIT` is not reported); every other field is unchanged. While a
handle is live it is refused. -/
def Obligations.ConstructEstablishesTheIdleState : Prop :=
  ∀ (x : TransportToken) (l : LineToken) (s : State),
    (s.live = false → s.phase = .idle →
      perform (.construct x l) s = .next { s with
        handle := some { transport := x, line := l }
        phase := .idle
        csCmd := .high
        csPhys := lineLevel .high (s.lineAnswer 0)
        trace := s.trace ++ [.cs .high (lineEvent (s.lineAnswer 0))]
        returned := s.returned ++ [.constructed]
        csAnswers := s.csAnswers.drop 1
        draws := s.draws + 1 } ∧
      reportedResult (constructConditions (lineEvent (s.lineAnswer 0))) = (.ok : TxAnswer)) ∧
    (s.live = true → Refuses (perform (.construct x l) s))

/-- R91: `DESTROY` gives both resources back with no transfer, `CS_CMD` and `PHASE` as they were. That it issues no event at all
is the spec's reading (decision D6; log entry 16, DESIGN CHOICE, unsafe for counts of events across a `DESTROY`). After it
the handle is gone, and `PD`, `WT` and a second `DESTROY` are refused (R149, decision D16). -/
def Obligations.DestroyReturnsBothResources : Prop :=
  ∀ (h : Handle) (s : State), s.handle = some h → s.phase = .idle →
    let t : State := { s with handle := none, returned := s.returned ++ [.resources h.transport h.line] }
    perform .destroy s = .next t ∧
    (∀ op : HostOp, op.isCommand = true ∨ op = .destroy → Refuses (perform op t))

/-- R149 (decision D16): which presentations are admitted and which are refused: `CONSTRUCT` needs `LIVE = 0`, the others
`LIVE = 1`, and all need `IDLE`; every admitted one has an outcome. A presentation that overlaps another, and one that two
hosts make at once, are inputs of their own kind, refused by the step that meets them, in every phase and in `IDLE` too: that
form is the model's (log entry 14, DESIGN CHOICE). -/
def Obligations.AdmissionIsByHandleAndPhase : Prop :=
  (∀ (op : HostOp) (s : State),
    (op.Admitted s → ∃ t, perform op s = .next t) ∧ (¬ op.Admitted s → Refuses (perform op s))) ∧
  (∀ (op : HostOp) (rest : List Input) (s : State), s.inputs = .overlapping op :: rest → Refuses (step s)) ∧
  (∀ (op₁ op₂ : HostOp) (rest : List Input) (s : State), s.inputs = .contended op₁ op₂ :: rest → Refuses (step s))

/-- The model's choice (log entry 21: the refusal is a DESIGN CHOICE, the harmless moves are DEDUCED): another user of the
resources is refused while the handle owns them; while none does, it may drive the line, which changes the physical level and
nothing of the block, or write, which changes nothing. The rules only lie behind it: R93 says the source gives such use no
meaning, R148 makes its absence a premise of a claim, R31 and R91 leave the line to the environment while no handle exists. -/
def Obligations.OutsidersOnlyWhileNoHandle : Prop :=
  ∀ (s : State) (rest : List Input),
    (∀ level, s.inputs = .outsideDrive level :: rest →
      (s.live = true → Refuses (step s)) ∧
      (s.live = false → step s = .next { s with inputs := rest, csPhys := level })) ∧
    (∀ bytes, s.inputs = .outsideWrite bytes :: rest →
      (s.live = true → Refuses (step s)) ∧ (s.live = false → step s = .next { s with inputs := rest }))

/-! ## One step -/

/-- An operation presented to an idle block runs, whole, in one step: that one step does it all is the model's choice (log
entry 13, DESIGN CHOICE: R130 allows it and R55 names R122 to R125 as the steps). R41, R53, R76: a `PD` or `WT` is exactly
`exec` of the instruction it is on the instance's variant, in the state with the presentation taken; `CONSTRUCT` and
`DESTROY`, which are no instruction, are performed. -/
def Obligations.StepRunsThePresentedOperation : Prop :=
  ∀ (op : HostOp) (rest : List Input) (s : State), s.phase = .idle → s.inputs = .call op :: rest →
    step s = perform op { s with inputs := rest } ∧
    ∀ i, op.instr s.cfg.variant = some i →
      i.variant = s.cfg.variant ∧ step s = exec i { s with inputs := rest }

/-- A word that decodes is run by the very next step after it is placed (log entry 18): the placed state is live and idle,
of the instruction's variant, presents its operation, and the step is `exec` of it and has a next state. -/
def Obligations.PlacedWordRunsNext : Prop :=
  ∀ (nbits w : Nat) (i : Instr) (s : State), decodeTableWord nbits w = some i →
    let t := s.withFetchWord nbits w
    t.Ready ∧ t.cfg.variant = i.variant ∧ t.inputs = .call (opOf i) :: s.inputs ∧
      step t = exec i { t with inputs := s.inputs } ∧ ∃ u, step t = .next u

/-- R122 to R125, R144, R160: an operation in progress cannot be interrupted or joined by another: until it returns, a
step is one step of the framer and no presented operation is taken; an idle block with nothing presented waits. -/
def Obligations.OperationInProgressIsNotInterrupted : Prop :=
  ∀ s : State, s.WellUsed →
    (s.phase ≠ .idle → step s = .next (framerStep s) ∧ (framerStep s).inputs = s.inputs) ∧
    (s.phase = .idle → s.inputs = [] → step s = .next s)

/-- R2, R8, R29, R56: no step changes the instance's parameters, and every step only appends to the trace and to the
answers given. -/
def Obligations.StepKeepsParametersAndHistory : Prop :=
  ∀ s t : State, step s = .next t → t.cfg = s.cfg ∧ s.trace <+: t.trace ∧ s.returned <+: t.returned

/-- R127, R142: what the control line answers never influences what the block does: two states that differ only in the
control line's answers and the physical level step to states, or refusals, that differ only in these. -/
def Obligations.DriveAnswersNeverSteer : Prop :=
  ∀ s s' : State, s.lineBlind = s'.lineBlind →
    mapNext State.lineBlind (step s) = mapNext State.lineBlind (step s')

/-- R8, R25, R140 (decision D17): the machine is generic in the types of error kinds, which may be any, and no step inspects
an error value. For any two types of the transport's error kinds and any map between them, mapping everywhere and then
stepping is stepping and then mapping; the same for the control line's, where the coming answers hold what the step draws
(it draws at most two, and a free answer is of one type). `step` is that step on the default types. -/
def Obligations.ErrorValuesPassThroughUnread : Prop :=
  (∀ (TErr TErr' CErr : Type) (f : TErr → TErr') (s : State TErr CErr),
    mapNext (State.rename f id) (stepOn s) = stepOn (s.rename f id)) ∧
  (∀ (TErr CErr CErr' : Type) (g : CErr → CErr') (s : State TErr CErr), 2 ≤ s.csAnswers.length →
    mapNext (State.rename id g) (stepOn s) = stepOn (s.rename id g)) ∧
  (∀ s : State, step s = stepOn s)

/-- R28 (decision D9): a drive answered `Ok` leaves the physical level at the commanded one; after one answered with an
error the physical level is whatever the environment left, and both levels occur; the commanded level is the requested
one in every case. For any types of error kinds. -/
def Obligations.FailedDriveLeavesAnyLevel : Prop :=
  ∀ TErr CErr : Type,
    (∀ (level : Level) (s : State TErr CErr), (s.csSet level).csCmd = level ∧
      (s.lineAnswer 0 = .ok → (s.csSet level).csPhys = level) ∧
      (∀ c leaves, s.lineAnswer 0 = .err c leaves → (s.csSet level).csPhys = leaves)) ∧
    (∀ (level left : Level) (c : CErr) (s : State TErr CErr), ∃ answers,
      let t := ({ s with csAnswers := answers } : State TErr CErr).csSet level
      t.csPhys = left ∧ t.trace = s.trace ++ [.cs level (.err c)])

/-! ## Invariants -/

/-- R31, R161: what holds at power-on, for either variant, any code table and any types of error kinds: no handle, `IDLE`, no
event issued, and the four invariants; nothing is said of the line's levels, which the spec leaves unspecified. -/
def Obligations.PowerOnMeetsTheInvariants : Prop :=
  (∀ (TErr CErr : Type) (cfg : Config), let s : State TErr CErr := State.powerOn cfg
    s.live = false ∧ s.phase = .idle ∧ s.trace = [] ∧ s.BlockInv ∧ s.TraceInv ∧ s.CountInv ∧ s.PhysInv) ∧
  (∃ cfg : Config, cfg.wf = true ∧ State.reset = State.powerOn cfg)

/-- R22, R24, R25, R32, R126: every step keeps the invariant of the five elements: an operation is in progress only with a
handle; once a drive has been issued `CS_CMD = LOW` exactly in `ASSERTING` and `TRANSFERRING`; `FRAME` is held exactly
while an operation is in progress, `RES` exactly in `DEASSERTING`. -/
def Obligations.StepKeepsTheBlockInvariant : Prop :=
  ∀ s t : State, s.BlockInv → step s = .next t → t.BlockInv

/-- R50, R126, R128, R46: every step keeps the shape of the trace: `( CS(HIGH) ( CS(LOW) WR(f) CS(HIGH) )* )*`, each write
a legal frame of the variant, possibly ending in `CS(LOW)` while an operation is in progress. -/
def Obligations.StepKeepsTheTraceShape : Prop :=
  ∀ s t : State, s.BlockInv → s.TraceInv → step s = .next t → t.TraceInv

/-- R48, R143 and 95_test_vectors.md section 4, invariants 5 and 6: every step keeps the books: results returned are the
answers of the writes in order, one assertion for each write, one deassertion for each write and each construction. -/
def Obligations.StepKeepsTheCounts : Prop :=
  ∀ s t : State, s.BlockInv → s.CountInv → step s = .next t → t.CountInv

/-- R28, R93: every step keeps the physical level equal to the commanded one while the handle owns the line and the last
drive was answered `Ok`. -/
def Obligations.StepKeepsThePhysicalLevel : Prop :=
  ∀ s t : State, s.PhysInv → step s = .next t → t.PhysInv

/-! ## Host programs -/

/-- R92: with one host and a transport that answers, a host program that begins with no handle runs to its end without a
refusal exactly if it is in the grammar `( CONSTRUCT ( PD | WT )* DESTROY )* [ CONSTRUCT ( PD | WT )* ]`. -/
def Obligations.AdmittedProgramsAreTheLifecycles : Prop :=
  ∀ (s : State) (ops : List HostOp), s.live = false → s.Runs ops →
    ((∃ t, core.run ops.length s = .next t) ↔ Lifecycle ops)

/-- R50, R48, R51, R56: a host program that runs to its end leaves in the trace exactly the requests of its operations, in
the order presented, none dropped, merged, repeated or reordered; its results are the transport's answers in order; and
the block is idle. -/
def Obligations.ProgramTraceIsItsOperationsInOrder : Prop :=
  ∀ (s t : State) (ops : List HostOp), s.Runs ops → core.run ops.length s = .next t →
    t.trace.map Event.request = s.trace.map Event.request ++ ops.flatMap (HostOp.requests s.cfg) ∧
    t.returned.filterMap Return.result? =
      s.returned.filterMap Return.result? ++ s.txAnswers.take (ops.filter HostOp.isCommand).length ∧
    t.phase = .idle ∧ t.inputs = []

/-- R30, R91, R21: after a `CONSTRUCT`, any commands and a `DESTROY`, the handle is gone and the last answer is the same
two resources that `CONSTRUCT` took. -/
def Obligations.SessionGivesBackWhatItTook : Prop :=
  ∀ (s : State) (x : TransportToken) (l : LineToken) (commands : List HostOp),
    s.live = false → (∀ op ∈ commands, op.isCommand = true) →
    s.Runs (.construct x l :: commands ++ [.destroy]) →
    ∃ t, core.run (commands.length + 2) s = .next t ∧ t.live = false ∧
      t.returned.getLast? = some (.resources x l)

/-- A loaded host program is an instance at power-on, of the program's variant, with the program's operations presented in
order (R77 for the lines), and where no command is said never to be answered, with a transport that answers each with its
line's answer. That a program is loaded so is the model's stand-in for the host (log entry 18, DESIGN CHOICE); that an
unstated answer is `Ok` is log entry 31 (DEDUCED). -/
def Obligations.LoadedProgramPresentsItsLines : Prop :=
  ∀ (codes : PdCodes) (p : Program),
    let s := loadProgram codes p
    s.live = false ∧ s.cfg = { variant := p.variant, pdCodes := codes } ∧
      s.inputs = p.lines.map (fun l => Input.call l.op) ∧
      ((∀ l ∈ p.lines, l.op.isCommand = true → l.tx ≠ .never) →
        s.Runs (p.lines.map Line.op) ∧
        s.txAnswers = (p.lines.filter fun l => l.op.isCommand).filterMap Line.txAnswer?)

/-- R77, R50: a loaded program of the grammar whose commands are all answered runs to its end, one step a line, and leaves
exactly the events of its lines, each with the answer stated beside its own line, whatever stands beside the others; its
results are its lines' answers. An answer not stated is `Ok` (log entry 31, DEDUCED); the loading is log entry 18. -/
def Obligations.ProgramLeavesItsStatedEvents : Prop :=
  ∀ (codes : PdCodes) (p : Program),
    (∀ l ∈ p.lines, l.op.isCommand = true → l.tx ≠ .never) → Lifecycle (p.lines.map Line.op) →
    ∃ t, core.run p.lines.length (loadProgram codes p) = .next t ∧ t.phase = .idle ∧
      t.trace = p.lines.flatMap (Line.events { variant := p.variant, pdCodes := codes }) ∧
      t.returned.filterMap Return.result? =
        (p.lines.filter fun l => l.op.isCommand).filterMap Line.txAnswer?

/-- R77, R129: a loaded program of the grammar whose first command that is never answered is `l` leaves the events of the lines
before `l` and the assertion of `l`, and stays with the frame of `l` outstanding and the line commanded low, whatever lines
follow (log entries 7 and 18). -/
def Obligations.SilentLineStopsTheProgram : Prop :=
  ∀ (codes : PdCodes) (p : Program) (before after : List Line) (l : Line),
    p.lines = before ++ l :: after → (∀ x ∈ before, x.op.isCommand = true → x.tx ≠ .never) →
    l.op.isCommand = true → l.tx = .never → Lifecycle ((before ++ [l]).map Line.op) →
    let cfg : Config := { variant := p.variant, pdCodes := codes }
    ∃ t, (∀ n, core.run (before.length + 1 + n) (loadProgram codes p) = .next t) ∧
      t.phase = .transferring ∧ t.csCmd = .low ∧ t.frame = l.op.frame? cfg ∧ t.frame ≠ none ∧
      t.inputs = after.map (fun x => Input.call x.op) ∧
      t.trace = before.flatMap (Line.events cfg) ++ [.cs .low (lineEvent (l.csAnswer 0))]
end

