-- ==== Sys2Proof/Laws/State.lean ====
section
/-! SUPPORT. One lemma per field per update of State, true by `rfl`, so that no proof unfolds a record update. -/

namespace Sys2Proof.Machine

variable {TErr CErr : Type}

/-! ### csSet -/

@[simp] theorem csSet_cfg (level : Level) (s : State TErr CErr) : (s.csSet level).cfg = s.cfg := rfl
@[simp] theorem csSet_handle (level : Level) (s : State TErr CErr) : (s.csSet level).handle = s.handle := rfl
@[simp] theorem csSet_phase (level : Level) (s : State TErr CErr) : (s.csSet level).phase = s.phase := rfl
@[simp] theorem csSet_csCmd (level : Level) (s : State TErr CErr) : (s.csSet level).csCmd = level := rfl
@[simp] theorem csSet_frame (level : Level) (s : State TErr CErr) : (s.csSet level).frame = s.frame := rfl
@[simp] theorem csSet_res (level : Level) (s : State TErr CErr) : (s.csSet level).res = s.res := rfl
@[simp] theorem csSet_csPhys (level : Level) (s : State TErr CErr) :
    (s.csSet level).csPhys = lineLevel level (s.lineAnswer 0) := rfl
@[simp] theorem csSet_trace (level : Level) (s : State TErr CErr) :
    (s.csSet level).trace = s.trace ++ [.cs level (lineEvent (s.lineAnswer 0))] := rfl
@[simp] theorem csSet_returned (level : Level) (s : State TErr CErr) : (s.csSet level).returned = s.returned := rfl
@[simp] theorem csSet_inputs (level : Level) (s : State TErr CErr) : (s.csSet level).inputs = s.inputs := rfl
@[simp] theorem csSet_txAnswers (level : Level) (s : State TErr CErr) : (s.csSet level).txAnswers = s.txAnswers := rfl
@[simp] theorem csSet_csAnswers (level : Level) (s : State TErr CErr) :
    (s.csSet level).csAnswers = s.csAnswers.tail := rfl
@[simp] theorem csSet_draws (level : Level) (s : State TErr CErr) : (s.csSet level).draws = s.draws + 1 := rfl
@[simp] theorem csSet_live (level : Level) (s : State TErr CErr) : (s.csSet level).live = s.live := rfl

/-! ### txAnswered -/

@[simp] theorem txAnswered_cfg (bytes : List Byte) (r : TxAnswer TErr) (s : State TErr CErr) :
    (s.txAnswered bytes r).cfg = s.cfg := rfl
@[simp] theorem txAnswered_handle (bytes : List Byte) (r : TxAnswer TErr) (s : State TErr CErr) :
    (s.txAnswered bytes r).handle = s.handle := rfl
@[simp] theorem txAnswered_phase (bytes : List Byte) (r : TxAnswer TErr) (s : State TErr CErr) :
    (s.txAnswered bytes r).phase = s.phase := rfl
@[simp] theorem txAnswered_csCmd (bytes : List Byte) (r : TxAnswer TErr) (s : State TErr CErr) :
    (s.txAnswered bytes r).csCmd = s.csCmd := rfl
@[simp] theorem txAnswered_frame (bytes : List Byte) (r : TxAnswer TErr) (s : State TErr CErr) :
    (s.txAnswered bytes r).frame = s.frame := rfl
@[simp] theorem txAnswered_res (bytes : List Byte) (r : TxAnswer TErr) (s : State TErr CErr) :
    (s.txAnswered bytes r).res = s.res := rfl
@[simp] theorem txAnswered_csPhys (bytes : List Byte) (r : TxAnswer TErr) (s : State TErr CErr) :
    (s.txAnswered bytes r).csPhys = s.csPhys := rfl
@[simp] theorem txAnswered_trace (bytes : List Byte) (r : TxAnswer TErr) (s : State TErr CErr) :
    (s.txAnswered bytes r).trace = s.trace ++ [.wr bytes r] := rfl
@[simp] theorem txAnswered_returned (bytes : List Byte) (r : TxAnswer TErr) (s : State TErr CErr) :
    (s.txAnswered bytes r).returned = s.returned := rfl
@[simp] theorem txAnswered_inputs (bytes : List Byte) (r : TxAnswer TErr) (s : State TErr CErr) :
    (s.txAnswered bytes r).inputs = s.inputs := rfl
@[simp] theorem txAnswered_txAnswers (bytes : List Byte) (r : TxAnswer TErr) (s : State TErr CErr) :
    (s.txAnswered bytes r).txAnswers = s.txAnswers.tail := rfl
@[simp] theorem txAnswered_csAnswers (bytes : List Byte) (r : TxAnswer TErr) (s : State TErr CErr) :
    (s.txAnswered bytes r).csAnswers = s.csAnswers := rfl
@[simp] theorem txAnswered_draws (bytes : List Byte) (r : TxAnswer TErr) (s : State TErr CErr) :
    (s.txAnswered bytes r).draws = s.draws := rfl
@[simp] theorem txAnswered_live (bytes : List Byte) (r : TxAnswer TErr) (s : State TErr CErr) :
    (s.txAnswered bytes r).live = s.live := rfl

/-! ### giveBack -/

@[simp] theorem giveBack_cfg (r : Return TErr) (s : State TErr CErr) : (s.giveBack r).cfg = s.cfg := rfl
@[simp] theorem giveBack_handle (r : Return TErr) (s : State TErr CErr) : (s.giveBack r).handle = s.handle := rfl
@[simp] theorem giveBack_phase (r : Return TErr) (s : State TErr CErr) : (s.giveBack r).phase = s.phase := rfl
@[simp] theorem giveBack_csCmd (r : Return TErr) (s : State TErr CErr) : (s.giveBack r).csCmd = s.csCmd := rfl
@[simp] theorem giveBack_frame (r : Return TErr) (s : State TErr CErr) : (s.giveBack r).frame = s.frame := rfl
@[simp] theorem giveBack_res (r : Return TErr) (s : State TErr CErr) : (s.giveBack r).res = s.res := rfl
@[simp] theorem giveBack_csPhys (r : Return TErr) (s : State TErr CErr) : (s.giveBack r).csPhys = s.csPhys := rfl
@[simp] theorem giveBack_trace (r : Return TErr) (s : State TErr CErr) : (s.giveBack r).trace = s.trace := rfl
@[simp] theorem giveBack_returned (r : Return TErr) (s : State TErr CErr) :
    (s.giveBack r).returned = s.returned ++ [r] := rfl
@[simp] theorem giveBack_inputs (r : Return TErr) (s : State TErr CErr) : (s.giveBack r).inputs = s.inputs := rfl
@[simp] theorem giveBack_txAnswers (r : Return TErr) (s : State TErr CErr) :
    (s.giveBack r).txAnswers = s.txAnswers := rfl
@[simp] theorem giveBack_csAnswers (r : Return TErr) (s : State TErr CErr) :
    (s.giveBack r).csAnswers = s.csAnswers := rfl
@[simp] theorem giveBack_draws (r : Return TErr) (s : State TErr CErr) : (s.giveBack r).draws = s.draws := rfl
@[simp] theorem giveBack_live (r : Return TErr) (s : State TErr CErr) : (s.giveBack r).live = s.live := rfl

/-! ### construct -/

@[simp] theorem construct_cfg (t : TransportToken) (l : LineToken) (s : State TErr CErr) :
    (construct t l s).cfg = s.cfg := rfl
@[simp] theorem construct_handle (t : TransportToken) (l : LineToken) (s : State TErr CErr) :
    (construct t l s).handle = some { transport := t, line := l } := rfl
@[simp] theorem construct_phase (t : TransportToken) (l : LineToken) (s : State TErr CErr) :
    (construct t l s).phase = .idle := rfl
@[simp] theorem construct_csCmd (t : TransportToken) (l : LineToken) (s : State TErr CErr) :
    (construct t l s).csCmd = .high := rfl
@[simp] theorem construct_frame (t : TransportToken) (l : LineToken) (s : State TErr CErr) :
    (construct t l s).frame = s.frame := rfl
@[simp] theorem construct_res (t : TransportToken) (l : LineToken) (s : State TErr CErr) :
    (construct t l s).res = s.res := rfl
@[simp] theorem construct_csPhys (t : TransportToken) (l : LineToken) (s : State TErr CErr) :
    (construct t l s).csPhys = lineLevel .high (s.lineAnswer 0) := rfl
@[simp] theorem construct_trace (t : TransportToken) (l : LineToken) (s : State TErr CErr) :
    (construct t l s).trace = s.trace ++ [.cs .high (lineEvent (s.lineAnswer 0))] := rfl
@[simp] theorem construct_returned (t : TransportToken) (l : LineToken) (s : State TErr CErr) :
    (construct t l s).returned = s.returned ++ [.constructed] := rfl
@[simp] theorem construct_inputs (t : TransportToken) (l : LineToken) (s : State TErr CErr) :
    (construct t l s).inputs = s.inputs := rfl
@[simp] theorem construct_txAnswers (t : TransportToken) (l : LineToken) (s : State TErr CErr) :
    (construct t l s).txAnswers = s.txAnswers := rfl
@[simp] theorem construct_csAnswers (t : TransportToken) (l : LineToken) (s : State TErr CErr) :
    (construct t l s).csAnswers = s.csAnswers.tail := rfl
@[simp] theorem construct_draws (t : TransportToken) (l : LineToken) (s : State TErr CErr) :
    (construct t l s).draws = s.draws + 1 := rfl
@[simp] theorem construct_live (t : TransportToken) (l : LineToken) (s : State TErr CErr) :
    (construct t l s).live = true := rfl

/-! ### afterTransfer -/

@[simp] theorem afterTransfer_cfg (bytes : List Byte) (r : TxAnswer TErr) (s : State TErr CErr) :
    (s.afterTransfer bytes r).cfg = s.cfg := rfl
@[simp] theorem afterTransfer_handle (bytes : List Byte) (r : TxAnswer TErr) (s : State TErr CErr) :
    (s.afterTransfer bytes r).handle = s.handle := rfl
@[simp] theorem afterTransfer_phase (bytes : List Byte) (r : TxAnswer TErr) (s : State TErr CErr) :
    (s.afterTransfer bytes r).phase = .idle := rfl
@[simp] theorem afterTransfer_csCmd (bytes : List Byte) (r : TxAnswer TErr) (s : State TErr CErr) :
    (s.afterTransfer bytes r).csCmd = .high := rfl
@[simp] theorem afterTransfer_frame (bytes : List Byte) (r : TxAnswer TErr) (s : State TErr CErr) :
    (s.afterTransfer bytes r).frame = none := rfl
@[simp] theorem afterTransfer_res (bytes : List Byte) (r : TxAnswer TErr) (s : State TErr CErr) :
    (s.afterTransfer bytes r).res = none := rfl
@[simp] theorem afterTransfer_csPhys (bytes : List Byte) (r : TxAnswer TErr) (s : State TErr CErr) :
    (s.afterTransfer bytes r).csPhys = lineLevel .high (s.lineAnswer 1) := rfl
@[simp] theorem afterTransfer_trace (bytes : List Byte) (r : TxAnswer TErr) (s : State TErr CErr) :
    (s.afterTransfer bytes r).trace = s.trace ++ [.cs .low (lineEvent (s.lineAnswer 0)), .wr bytes r, .cs .high (lineEvent (s.lineAnswer 1))] := rfl
@[simp] theorem afterTransfer_returned (bytes : List Byte) (r : TxAnswer TErr) (s : State TErr CErr) :
    (s.afterTransfer bytes r).returned = s.returned ++ [.result r] := rfl
@[simp] theorem afterTransfer_inputs (bytes : List Byte) (r : TxAnswer TErr) (s : State TErr CErr) :
    (s.afterTransfer bytes r).inputs = s.inputs := rfl
@[simp] theorem afterTransfer_txAnswers (bytes : List Byte) (r : TxAnswer TErr) (s : State TErr CErr) :
    (s.afterTransfer bytes r).txAnswers = s.txAnswers.drop 1 := rfl
@[simp] theorem afterTransfer_csAnswers (bytes : List Byte) (r : TxAnswer TErr) (s : State TErr CErr) :
    (s.afterTransfer bytes r).csAnswers = s.csAnswers.drop 2 := rfl
@[simp] theorem afterTransfer_draws (bytes : List Byte) (r : TxAnswer TErr) (s : State TErr CErr) :
    (s.afterTransfer bytes r).draws = s.draws + 2 := rfl
@[simp] theorem afterTransfer_live (bytes : List Byte) (r : TxAnswer TErr) (s : State TErr CErr) :
    (s.afterTransfer bytes r).live = s.live := rfl

/-! ### awaitingTransport -/

@[simp] theorem awaitingTransport_cfg (bytes : List Byte) (s : State TErr CErr) :
    (s.awaitingTransport bytes).cfg = s.cfg := rfl
@[simp] theorem awaitingTransport_handle (bytes : List Byte) (s : State TErr CErr) :
    (s.awaitingTransport bytes).handle = s.handle := rfl
@[simp] theorem awaitingTransport_phase (bytes : List Byte) (s : State TErr CErr) :
    (s.awaitingTransport bytes).phase = .transferring := rfl
@[simp] theorem awaitingTransport_csCmd (bytes : List Byte) (s : State TErr CErr) :
    (s.awaitingTransport bytes).csCmd = .low := rfl
@[simp] theorem awaitingTransport_frame (bytes : List Byte) (s : State TErr CErr) :
    (s.awaitingTransport bytes).frame = some bytes := rfl
@[simp] theorem awaitingTransport_res (bytes : List Byte) (s : State TErr CErr) :
    (s.awaitingTransport bytes).res = s.res := rfl
@[simp] theorem awaitingTransport_csPhys (bytes : List Byte) (s : State TErr CErr) :
    (s.awaitingTransport bytes).csPhys = lineLevel .low (s.lineAnswer 0) := rfl
@[simp] theorem awaitingTransport_trace (bytes : List Byte) (s : State TErr CErr) :
    (s.awaitingTransport bytes).trace = s.trace ++ [.cs .low (lineEvent (s.lineAnswer 0))] := rfl
@[simp] theorem awaitingTransport_returned (bytes : List Byte) (s : State TErr CErr) :
    (s.awaitingTransport bytes).returned = s.returned := rfl
@[simp] theorem awaitingTransport_inputs (bytes : List Byte) (s : State TErr CErr) :
    (s.awaitingTransport bytes).inputs = s.inputs := rfl
@[simp] theorem awaitingTransport_txAnswers (bytes : List Byte) (s : State TErr CErr) :
    (s.awaitingTransport bytes).txAnswers = s.txAnswers := rfl
@[simp] theorem awaitingTransport_csAnswers (bytes : List Byte) (s : State TErr CErr) :
    (s.awaitingTransport bytes).csAnswers = s.csAnswers.drop 1 := rfl
@[simp] theorem awaitingTransport_draws (bytes : List Byte) (s : State TErr CErr) :
    (s.awaitingTransport bytes).draws = s.draws + 1 := rfl
@[simp] theorem awaitingTransport_live (bytes : List Byte) (s : State TErr CErr) :
    (s.awaitingTransport bytes).live = s.live := rfl

/-! ### assertStep -/

@[simp] theorem assertStep_cfg (bytes : List Byte) (s : State TErr CErr) : (assertStep bytes s).cfg = s.cfg := rfl
@[simp] theorem assertStep_handle (bytes : List Byte) (s : State TErr CErr) :
    (assertStep bytes s).handle = s.handle := rfl
@[simp] theorem assertStep_phase (bytes : List Byte) (s : State TErr CErr) :
    (assertStep bytes s).phase = .asserting := rfl
@[simp] theorem assertStep_csCmd (bytes : List Byte) (s : State TErr CErr) : (assertStep bytes s).csCmd = .low := rfl
@[simp] theorem assertStep_frame (bytes : List Byte) (s : State TErr CErr) :
    (assertStep bytes s).frame = some bytes := rfl
@[simp] theorem assertStep_res (bytes : List Byte) (s : State TErr CErr) : (assertStep bytes s).res = s.res := rfl
@[simp] theorem assertStep_csPhys (bytes : List Byte) (s : State TErr CErr) :
    (assertStep bytes s).csPhys = lineLevel .low (s.lineAnswer 0) := rfl
@[simp] theorem assertStep_trace (bytes : List Byte) (s : State TErr CErr) :
    (assertStep bytes s).trace = s.trace ++ [.cs .low (lineEvent (s.lineAnswer 0))] := rfl
@[simp] theorem assertStep_returned (bytes : List Byte) (s : State TErr CErr) :
    (assertStep bytes s).returned = s.returned := rfl
@[simp] theorem assertStep_inputs (bytes : List Byte) (s : State TErr CErr) :
    (assertStep bytes s).inputs = s.inputs := rfl
@[simp] theorem assertStep_txAnswers (bytes : List Byte) (s : State TErr CErr) :
    (assertStep bytes s).txAnswers = s.txAnswers := rfl
@[simp] theorem assertStep_csAnswers (bytes : List Byte) (s : State TErr CErr) :
    (assertStep bytes s).csAnswers = s.csAnswers.tail := rfl
@[simp] theorem assertStep_draws (bytes : List Byte) (s : State TErr CErr) :
    (assertStep bytes s).draws = s.draws + 1 := rfl
@[simp] theorem assertStep_live (bytes : List Byte) (s : State TErr CErr) : (assertStep bytes s).live = s.live := rfl

/-! ### transferStep -/

@[simp] theorem transferStep_cfg (s : State TErr CErr) : (transferStep s).cfg = s.cfg := rfl
@[simp] theorem transferStep_handle (s : State TErr CErr) : (transferStep s).handle = s.handle := rfl
@[simp] theorem transferStep_phase (s : State TErr CErr) : (transferStep s).phase = .transferring := rfl
@[simp] theorem transferStep_csCmd (s : State TErr CErr) : (transferStep s).csCmd = s.csCmd := rfl
@[simp] theorem transferStep_frame (s : State TErr CErr) : (transferStep s).frame = s.frame := rfl
@[simp] theorem transferStep_res (s : State TErr CErr) : (transferStep s).res = s.res := rfl
@[simp] theorem transferStep_csPhys (s : State TErr CErr) : (transferStep s).csPhys = s.csPhys := rfl
@[simp] theorem transferStep_trace (s : State TErr CErr) : (transferStep s).trace = s.trace := rfl
@[simp] theorem transferStep_returned (s : State TErr CErr) : (transferStep s).returned = s.returned := rfl
@[simp] theorem transferStep_inputs (s : State TErr CErr) : (transferStep s).inputs = s.inputs := rfl
@[simp] theorem transferStep_txAnswers (s : State TErr CErr) : (transferStep s).txAnswers = s.txAnswers := rfl
@[simp] theorem transferStep_csAnswers (s : State TErr CErr) : (transferStep s).csAnswers = s.csAnswers := rfl
@[simp] theorem transferStep_draws (s : State TErr CErr) : (transferStep s).draws = s.draws := rfl
@[simp] theorem transferStep_live (s : State TErr CErr) : (transferStep s).live = s.live := rfl

/-! ### rename -/

section Renaming

variable {TErr' CErr' : Type} (f : TErr → TErr') (g : CErr → CErr') (s : State TErr CErr)

@[simp] theorem rename_cfg : (s.rename f g).cfg = s.cfg := rfl
@[simp] theorem rename_handle : (s.rename f g).handle = s.handle := rfl
@[simp] theorem rename_phase : (s.rename f g).phase = s.phase := rfl
@[simp] theorem rename_csCmd : (s.rename f g).csCmd = s.csCmd := rfl
@[simp] theorem rename_frame : (s.rename f g).frame = s.frame := rfl
@[simp] theorem rename_res : (s.rename f g).res = s.res.map (renameTx f) := rfl
@[simp] theorem rename_csPhys : (s.rename f g).csPhys = s.csPhys := rfl
@[simp] theorem rename_trace : (s.rename f g).trace = s.trace.map (Event.rename f g) := rfl
@[simp] theorem rename_returned : (s.rename f g).returned = s.returned.map (Return.rename f) := rfl
@[simp] theorem rename_inputs : (s.rename f g).inputs = s.inputs := rfl
@[simp] theorem rename_txAnswers : (s.rename f g).txAnswers = s.txAnswers.map (renameTx f) := rfl
@[simp] theorem rename_csAnswers : (s.rename f g).csAnswers = s.csAnswers.map (renameLine g) := rfl
@[simp] theorem rename_draws : (s.rename f g).draws = s.draws := rfl
@[simp] theorem rename_live : (s.rename f g).live = s.live := rfl

@[simp] theorem lineEvent_rename (a : LineAnswer CErr) : lineEvent (renameLine g a) = renameCs g (lineEvent a) := by
  cases a <;> rfl

@[simp] theorem lineLevel_rename (level : Level) (a : LineAnswer CErr) :
    lineLevel level (renameLine g a) = lineLevel level a := by
  cases a <;> rfl

@[simp] theorem renameLine_id (a : LineAnswer CErr) : renameLine id a = a := by
  cases a <;> rfl

end Renaming

/-! ### Host programs -/

@[simp] theorem loadProgram_cfg (codes : PdCodes) (p : Program TErr CErr) :
    (loadProgram codes p).cfg = { variant := p.variant, pdCodes := codes } := rfl
@[simp] theorem loadProgram_live (codes : PdCodes) (p : Program TErr CErr) : (loadProgram codes p).live = false := rfl
@[simp] theorem loadProgram_phase (codes : PdCodes) (p : Program TErr CErr) : (loadProgram codes p).phase = .idle := rfl
@[simp] theorem loadProgram_trace (codes : PdCodes) (p : Program TErr CErr) : (loadProgram codes p).trace = [] := rfl
@[simp] theorem loadProgram_returned (codes : PdCodes) (p : Program TErr CErr) :
    (loadProgram codes p).returned = [] := rfl
@[simp] theorem loadProgram_inputs (codes : PdCodes) (p : Program TErr CErr) :
    (loadProgram codes p).inputs = p.lines.map (fun l => Input.call l.op) := rfl
@[simp] theorem loadProgram_txAnswers (codes : PdCodes) (p : Program TErr CErr) :
    (loadProgram codes p).txAnswers = lineAnswers p.lines := rfl
@[simp] theorem loadProgram_csAnswers (codes : PdCodes) (p : Program TErr CErr) :
    (loadProgram codes p).csAnswers = p.lines.flatMap Line.csAnswers := rfl

@[simp] theorem csAnswers_length (l : Line TErr CErr) : l.csAnswers.length = l.op.drives := by
  simp [Line.csAnswers]

/-- Where a line's own answers come first, its drive requests get them. -/
theorem lineAnswer_of_line {l : Line TErr CErr} {k : Nat} {rest : List (LineAnswer CErr)} {s : State TErr CErr}
    (h : s.csAnswers = l.csAnswers ++ rest) (hk : k < l.op.drives) : s.lineAnswer k = l.csAnswer k := by
  have hl : k < l.csAnswers.length := by simpa using hk
  simp only [State.lineAnswer, h, List.getElem?_append_left hl]
  simp [Line.csAnswers, hk]

end Sys2Proof.Machine
end

