-- ==== Sys2Proof/Laws/Ops.lean ====
section
/-! SUPPORT. For each shared operation, once, everything it can do: `SEND` in closed form, the admission tests, the commands,
the handle operations, a presented operation, and one step. Later proofs cite these and do not unfold the operations. -/

namespace Sys2Proof.Machine

variable {TErr CErr : Type}

/-! ### Admission -/

theorem notAdmitted_eq_none {s : State TErr CErr} : s.notAdmitted = none ↔ s.Ready := by
  unfold State.notAdmitted State.Ready
  split <;> [split; skip] <;> simp_all

theorem notAdmitted_of_not_ready {s : State TErr CErr} (h : ¬ s.Ready) : ∃ r, s.notAdmitted = some r := by
  cases hr : s.notAdmitted with
  | none => exact absurd (notAdmitted_eq_none.mp hr) h
  | some r => exact ⟨r, rfl⟩

theorem constructNotAdmitted_eq_none {s : State TErr CErr} :
    s.constructNotAdmitted = none ↔ s.live = false ∧ s.phase = .idle := by
  unfold State.constructNotAdmitted
  split <;> [skip; split] <;> simp_all

/-! ### SEND -/

theorem lineAnswer_tail (s : State TErr CErr) (k : Nat) :
    ((s.csAnswers.tail[k]?).getD (Config.freeLine (s.draws + 1 + k))) = s.lineAnswer (k + 1) := by
  simp [State.lineAnswer, List.getElem?_tail, Nat.add_assoc, Nat.add_comm 1 k]

theorem send_answered {s : State TErr CErr} {r : TxAnswer TErr} {rest : List (TxAnswer TErr)} (f : List Byte)
    (h : s.txAnswers = r :: rest) : send f s = s.afterTransfer f r := by
  simp [send, h, State.csSet, State.txAnswered, State.giveBack, State.afterTransfer, State.lineAnswer,
    ← List.drop_one]

theorem send_silent {s : State TErr CErr} (f : List Byte) (h : s.txAnswers = []) :
    send f s = s.awaitingTransport f := by
  simp [send, h, State.csSet, State.awaitingTransport, State.lineAnswer]

/-- Everything `SEND` can do. -/
theorem send_cases (f : List Byte) (s : State TErr CErr) :
    (∃ r rest, s.txAnswers = r :: rest ∧ send f s = s.afterTransfer f r) ∨
      (s.txAnswers = [] ∧ send f s = s.awaitingTransport f) := by
  cases h : s.txAnswers with
  | nil => exact .inr ⟨rfl, send_silent f h⟩
  | cons r rest => exact .inl ⟨r, rest, rfl, send_answered f h⟩

/-! ### The commands -/

/-- The meaning of every instruction is `command` with its own variant and frame. -/
theorem exec_eq_command (i : Instr) (s : State) :
    exec i s = command i.variant (frameOf s.cfg.pdCodes i) s := by
  cases i <;> rfl

theorem command_of_ready {s : State TErr CErr} {v : Variant} (f : List Byte) (hv : s.cfg.variant = v) (hr : s.Ready) :
    command v f s = .next (send f s) := by
  simp [command, hv, notAdmitted_eq_none.mpr hr]

theorem command_not_ready {s : State TErr CErr} (v : Variant) (f : List Byte) (hr : ¬ s.Ready) : Refuses (command v f s) := by
  obtain ⟨r, hr⟩ := notAdmitted_of_not_ready hr
  unfold command Refuses
  split
  · exact ⟨r, by rw [hr]⟩
  · exact ⟨_, rfl⟩

/-- Everything a command that goes on can do. -/
theorem command_next {s t : State TErr CErr} {v : Variant} {f : List Byte} (h : command v f s = .next t) :
    s.cfg.variant = v ∧ s.Ready ∧ t = send f s := by
  by_cases hr : s.Ready
  · by_cases hv : s.cfg.variant = v
    · rw [command_of_ready f hv hr] at h
      exact ⟨hv, hr, by injection h with h; exact h.symm⟩
    · simp [command, hv] at h
  · obtain ⟨r, h'⟩ := command_not_ready v f hr
    rw [h'] at h
    cases h

/-! ### The handle operations -/

theorem execConstruct_next {s t : State TErr CErr} {x : TransportToken} {l : LineToken}
    (h : execConstruct x l s = .next t) : s.live = false ∧ s.phase = .idle ∧ t = construct x l s := by
  unfold execConstruct at h
  split at h
  · cases h
  · rename_i hn
    have := constructNotAdmitted_eq_none.mp hn
    injection h with h
    exact ⟨this.1, this.2, h.symm⟩

theorem execDestroy_next {s t : State TErr CErr} (h : execDestroy s = .next t) :
    ∃ hd, s.handle = some hd ∧ s.phase = .idle ∧
      t = ({ s with handle := none } : State TErr CErr).giveBack (.resources hd.transport hd.line) := by
  unfold execDestroy at h
  split at h
  · cases h
  · rename_i hd hn heq
    have := notAdmitted_eq_none.mp hn
    injection h with h
    exact ⟨hd, heq, this.2, h.symm⟩
  · cases h

/-! ### A presented operation and one step -/

/-- A presented `PD` or `WT` is the instruction of the instance's variant. -/
theorem perform_instr {op : HostOp} {s : State TErr CErr} {i : Instr} (h : op.instr s.cfg.variant = some i) :
    perform op s = command i.variant (frameOf s.cfg.pdCodes i) s ∧ i.variant = s.cfg.variant := by
  cases op <;> simp only [HostOp.instr, reduceCtorEq, Option.some.injEq] at h <;>
    cases hv : s.cfg.variant <;> simp only [hv] at h <;> subst h <;> simp only [perform, hv] <;> exact ⟨rfl, rfl⟩

/-- The same as `exec` dispatches it. -/
theorem perform_command {op : HostOp} {s : State} {i : Instr} (h : op.instr s.cfg.variant = some i) :
    perform op s = exec i s ∧ i.variant = s.cfg.variant :=
  ⟨(perform_instr h).1.trans (exec_eq_command i s).symm, (perform_instr h).2⟩

/-- Everything a presented operation that goes on can do. -/
theorem perform_next {op : HostOp} {s t : State TErr CErr} (h : perform op s = .next t) :
    (∃ x l, op = .construct x l ∧ s.live = false ∧ s.phase = .idle ∧ t = construct x l s) ∨
    (∃ hd, op = .destroy ∧ s.handle = some hd ∧ s.phase = .idle ∧
      t = ({ s with handle := none } : State TErr CErr).giveBack (.resources hd.transport hd.line)) ∨
    (∃ i, op.instr s.cfg.variant = some i ∧ i.variant = s.cfg.variant ∧ s.Ready ∧
      t = send (frameOf s.cfg.pdCodes i) s) := by
  cases op with
  | construct x l =>
    obtain ⟨h1, h2, h3⟩ := execConstruct_next h
    exact .inl ⟨x, l, rfl, h1, h2, h3⟩
  | destroy =>
    obtain ⟨hd, h1, h2, h3⟩ := execDestroy_next h
    exact .inr (.inl ⟨hd, rfl, h1, h2, h3⟩)
  | pd m =>
    obtain ⟨i, hi⟩ : ∃ i, (HostOp.pd m).instr s.cfg.variant = some i := ⟨_, rfl⟩
    rw [(perform_instr hi).1] at h
    obtain ⟨h1, h2, h3⟩ := command_next h
    exact .inr (.inr ⟨i, hi, h1.symm, h2, h3⟩)
  | wt x =>
    obtain ⟨i, hi⟩ : ∃ i, (HostOp.wt x).instr s.cfg.variant = some i := ⟨_, rfl⟩
    rw [(perform_instr hi).1] at h
    obtain ⟨h1, h2, h3⟩ := command_next h
    exact .inr (.inr ⟨i, hi, h1.symm, h2, h3⟩)

/-- Everything a step that goes on can do: the framer carries on, a presented operation is performed in `IDLE`, or an
outsider moves while no handle exists. -/
theorem stepOn_next {s t : State TErr CErr} (h : stepOn s = .next t) :
    ((s.phase ≠ .idle ∨ s.inputs = []) ∧ t = framerStep s) ∨
    (∃ op rest, s.inputs = .call op :: rest ∧ s.phase = .idle ∧ perform op { s with inputs := rest } = .next t) ∨
    (∃ level rest, s.inputs = .outsideDrive level :: rest ∧ s.live = false ∧
      t = { s with inputs := rest, csPhys := level }) ∨
    (∃ bytes rest, s.inputs = .outsideWrite bytes :: rest ∧ s.live = false ∧ t = { s with inputs := rest }) := by
  unfold stepOn at h
  split at h
  · next hi => injection h with h; exact .inl ⟨.inr hi, h.symm⟩
  · next op rest hi =>
    split at h
    · next hp => exact .inr (.inl ⟨op, rest, hi, hp, h⟩)
    · next hp => injection h with h; exact .inl ⟨.inl hp, h.symm⟩
  · cases h
  · cases h
  · next level rest hi =>
    split at h
    · cases h
    · next hl => injection h with h; exact .inr (.inr (.inl ⟨level, rest, hi, by simpa using hl, h.symm⟩))
  · next bytes rest hi =>
    split at h
    · cases h
    · next hl => injection h with h; exact .inr (.inr (.inr ⟨bytes, rest, hi, by simpa using hl, h.symm⟩))

/-- Everything one step of the framer can do. -/
theorem framerStep_cases (s : State TErr CErr) :
    (s.phase = .idle ∧ framerStep s = s) ∨
    (s.phase = .asserting ∧ framerStep s = transferStep s) ∨
    (s.phase = .transferring ∧ s.txAnswers = [] ∧ framerStep s = s) ∨
    (∃ r rest, s.phase = .transferring ∧ s.txAnswers = r :: rest ∧ framerStep s = deassertStep r s) ∨
    (s.phase = .deasserting ∧ framerStep s = finishStep s) := by
  unfold framerStep
  cases hp : s.phase <;> simp
  cases s.txAnswers <;> simp

theorem deassertStep_eq {s : State TErr CErr} {f : List Byte} (r : TxAnswer TErr) (h : s.frame = some f) :
    deassertStep r s =
      { ({ s.txAnswered f r with res := some r } : State TErr CErr).csSet .high with phase := .deasserting } := by
  simp [deassertStep, h]

theorem finishStep_eq {s : State TErr CErr} {r : TxAnswer TErr} (h : s.res = some r) :
    finishStep s = { s.giveBack (.result r) with phase := .idle, frame := none, res := none } := by
  simp [finishStep, h]

/-! ### Frames -/

theorem selOf_pdByte0 (c : Code) : selOf (pdByte0 c) = selPd := by
  revert c; decide

theorem selOf_wt (b : Byte) (h : b ≤ 0x3F#8) : selOf (0x40#8 ||| b) = selWt := by
  revert b; decide

/-- Every frame a command sends may be carried by a transfer of its variant. -/
theorem legalFrame_frameOf (p : PdCodes) (i : Instr) : legalFrame i.variant (frameOf p i) = true := by
  cases i with
  | pdN m => simp [legalFrame, frameOf, pdFrameN, Instr.variant, Variant.frameBytes, selOf_pdByte0]
  | pdW m => simp [legalFrame, frameOf, pdFrameW, Instr.variant, Variant.frameBytes, selOf_pdByte0]
  | wtN v =>
    have h : trunc8 (v >>> 8) &&& 0x3F#8 ≤ 0x3F#8 := by generalize trunc8 (v >>> 8) = b; revert b; decide
    simp [legalFrame, frameOf, wtFrameN, Instr.variant, Variant.frameBytes, selOf_wt _ h]
  | wtW v =>
    have h : trunc8 (v >>> 10) ≤ 0x3F#8 := by
      rw [BitVec.le_def]
      simp [trunc8, Nat.shiftRight_eq_div_pow]
      omega
    simp [legalFrame, frameOf, wtFrameW, Instr.variant, Variant.frameBytes, selOf_wt _ h]

end Sys2Proof.Machine
end

