-- ==== Sys2Proof/Laws/PerInstr.lean ====
section
/-! SUPPORT. Facts about each instruction as syntax, one lemma per constructor. `EncodedShape`: the encoding has the length
of the instruction's variant and begins with the selector of its command (30_encoding.md R60, R61, R74). -/

namespace Sys2Proof.Laws.EncodedShape

/-- The selector of an instruction's command (R61). -/
def selector : Instr → BitVec 2
  | .pdN _ => selPd
  | .wtN _ => selWt
  | .pdW _ => selPd
  | .wtW _ => selWt

def Statement (i : Instr) : Prop :=
  ∀ p : PdCodes, (encode p i).length = i.variant.frameBytes ∧ (encode p i).head?.map selOf = some (selector i)

theorem sel_append (s : BitVec 2) (x : BitVec 6) : selOf (s ++ x) = s := by
  revert s x; decide

theorem pd_byte0 (s : BitVec 2) (c : Code) : selOf (s ++ c ++ 0b00#2) = s := by
  revert s c; decide

theorem pdN (mode : Mode) : Statement (.pdN mode) := fun p =>
  ⟨rfl, congrArg some (pd_byte0 selPd (p.code mode))⟩

theorem wtN (value : Value) : Statement (.wtN value) := fun _ =>
  ⟨rfl, congrArg some (sel_append selWt (value.extractLsb 13 8))⟩

theorem pdW (mode : Mode) : Statement (.pdW mode) := fun p =>
  ⟨rfl, congrArg some (pd_byte0 selPd (p.code mode))⟩

theorem wtW (value : Value) : Statement (.wtW value) := fun _ =>
  ⟨rfl, congrArg some (sel_append selWt (value.extractLsb 15 10))⟩

end Sys2Proof.Laws.EncodedShape
end

