-- ==== Sys2Proof/Laws/Step.lean ====
section
/-! SUPPORT. One step in closed form: every next state a step can have, and how a run takes its first step. -/

namespace Sys2Proof.Machine

variable {TErr CErr : Type}

/-- Every next state of a step: nothing changes (the block waits), one of the framer's three steps, a completed
`CONSTRUCT`, `DESTROY` or command, a command the transport does not answer, or a move of an outsider. -/
theorem stepOn_next_closed {s t : State TErr CErr} (h : stepOn s = .next t) :
    t = s ∨
    (s.phase = .asserting ∧ t = transferStep s) ∨
    (∃ r rest, s.phase = .transferring ∧ s.txAnswers = r :: rest ∧ t = deassertStep r s) ∨
    (s.phase = .deasserting ∧ t = finishStep s) ∨
    (∃ x l rest, s.live = false ∧ s.phase = .idle ∧ t = construct x l { s with inputs := rest }) ∨
    (∃ hd rest, s.handle = some hd ∧ s.phase = .idle ∧
      t = ({ s with handle := none, inputs := rest } : State TErr CErr).giveBack (.resources hd.transport hd.line)) ∨
    (∃ i rest r, i.variant = s.cfg.variant ∧ s.Ready ∧
      t = ({ s with inputs := rest } : State TErr CErr).afterTransfer (frameOf s.cfg.pdCodes i) r) ∨
    (∃ i rest, i.variant = s.cfg.variant ∧ s.Ready ∧ s.txAnswers = [] ∧
      t = ({ s with inputs := rest } : State TErr CErr).awaitingTransport (frameOf s.cfg.pdCodes i)) ∨
    (∃ level rest, s.live = false ∧ t = { s with inputs := rest, csPhys := level }) ∨
    (∃ rest, s.live = false ∧ t = { s with inputs := rest }) := by
  rcases stepOn_next h with ⟨-, rfl⟩ | ⟨op, rest, hi, hp, h⟩ | ⟨l, rest, hi, hl, rfl⟩ | ⟨_, rest, hi, hl, rfl⟩
  · rcases framerStep_cases s with ⟨_, h⟩ | ⟨_, h⟩ | ⟨_, _, h⟩ | ⟨r, _, _, _, h⟩ | ⟨_, h⟩ <;> rw [h] <;> simp_all
  · rcases perform_next h with ⟨x, l, _, h1, h2, rfl⟩ | ⟨hd, _, h1, h2, rfl⟩ | ⟨i, _, h2, h3, rfl⟩
    · exact .inr (.inr (.inr (.inr (.inl ⟨x, l, rest, h1, h2, rfl⟩))))
    · exact .inr (.inr (.inr (.inr (.inr (.inl ⟨hd, rest, h1, h2, rfl⟩)))))
    · rcases send_cases (frameOf s.cfg.pdCodes i) { s with inputs := rest } with ⟨r, _, _, h5⟩ | ⟨h4, h5⟩
      · exact .inr (.inr (.inr (.inr (.inr (.inr (.inl ⟨i, rest, r, h2, h3, h5⟩))))))
      · exact .inr (.inr (.inr (.inr (.inr (.inr (.inr (.inl ⟨i, rest, h2, h3, h4, h5⟩)))))))
  · exact .inr (.inr (.inr (.inr (.inr (.inr (.inr (.inr (.inl ⟨l, rest, hl, rfl⟩))))))))
  · exact .inr (.inr (.inr (.inr (.inr (.inr (.inr (.inr (.inr ⟨rest, hl, rfl⟩))))))))

/-- `step` is the generic step on the default types of error kinds, so the two lemmas on `stepOn` are lemmas on `step`. -/
theorem step_eq_stepOn (s : State) : step s = stepOn s := rfl

/-- A command the transport does not answer stays where it is, whatever operations wait (R129). -/
theorem stepOn_waits {s : State TErr CErr} (hp : s.phase = .transferring) (ht : s.txAnswers = []) (hu : s.WellUsed) :
    stepOn s = .next s := by
  have hf : framerStep s = s := by simp [framerStep, hp, ht]
  unfold stepOn
  cases hi : s.inputs with
  | nil => simp [hf]
  | cons a rest =>
    obtain ⟨op, rfl⟩ := hu a (by simp [hi])
    simp [hp, hf]

theorem host_run_next (M : Host.Core) {n : Nat} {s t : M.State} (h : M.step s = .next t) :
    M.run (n + 1) s = M.run n t := by
  simp [Host.Core.run, h]

theorem host_run_refused (M : Host.Core) {n : Nat} {s : M.State} {r : M.Refusal} (h : M.step s = .refused r) :
    M.run (n + 1) s = .refused r := by
  simp [Host.Core.run, h]

/-- A run whose first step goes on. -/
theorem core_run_next {n : Nat} {s t : State} (h : step s = .next t) : core.run (n + 1) s = core.run n t :=
  host_run_next core h

/-- A run whose first step is refused. -/
theorem core_run_refused {n : Nat} {s : State} {r : Refusal} (h : step s = .refused r) :
    core.run (n + 1) s = .refused r :=
  host_run_refused core h

end Sys2Proof.Machine
end

