-- ==== Sys2Proof/Tests/Slice0.lean ====
section
/-! SUPPORT. Tests: decoding of words written out from the format tables, the well-formedness checks, one step of each
operation, and for every statement with hypotheses a state that meets them. Expected results are the worked examples and
vectors of 95_test_vectors.md, or hand calculation from the rule named. -/

namespace Sys2Proof.Machine

/-- A live, idle instance with the given answers to come; every field concrete. -/
def testLive (v : Variant) (tx : List TxAnswer) (cs : List LineAnswer) : State :=
  { cfg := { variant := v, pdCodes := PdCodes.decided }
    handle := some { transport := 7, line := 9 }
    phase := .idle
    csCmd := .high
    frame := none
    res := none
    csPhys := .high
    trace := [.cs .high .ok]
    returned := [.constructed]
    inputs := []
    txAnswers := tx
    csAnswers := cs
    draws := 1 }

/-- The same without a handle, as after a `DESTROY`. -/
def testDead (v : Variant) (tx : List TxAnswer) (cs : List LineAnswer) : State :=
  { testLive v tx cs with handle := none, returned := [.constructed, .resources 7 9] }

/-- An instance in `TRANSFERRING` with the narrow frame of `0x0100`. -/
def testWaiting (tx : List TxAnswer) : State :=
  { testLive .narrow tx [.ok] with
    phase := .transferring, csCmd := .low, csPhys := .low, frame := some [0x41#8, 0x00#8]
    trace := [.cs .high .ok, .cs .low .ok] }

/-- What a test looks at in a next state: the trace, the answers, the commanded and the physical level, the phase. -/
def seen (o : Result) : Option (List Event × List Return × Level × Level × Phase) :=
  (nextOf o).map fun t => (t.trace, t.returned, t.csCmd, t.csPhys, t.phase)

/-! ## Decoding (R62 to R66, R73 to R75; 95_test_vectors.md sections 2.1 to 2.3) -/

-- selector 10, MODE 0011, padding: S2's first byte 0x8C, narrow
theorem test_decode_pdN : decodeTableWord 16 0b1000110000000000 = some (.pdN .gnd1k) := by decide
-- selector 01, value 00_0011_1111_1111: S1's frame 0x43FF
theorem test_decode_wtN : decodeTableWord 16 0b0100001111111111 = some (.wtN 0x03FF#16) := by decide
-- selector 10, MODE 0001 (decision D3), 18 padding bits
theorem test_decode_pdW : decodeTableWord 24 0b100001000000000000000000 = some (.pdW .hiz) := by decide
-- selector 01, value 1010101111001101, padding: 0x6AF340
theorem test_decode_wtW : decodeTableWord 24 0b011010101111001101000000 = some (.wtW 0xABCD#16) := by decide

def narrowDefault : Config := { variant := .narrow, pdCodes := PdCodes.decided }
def wideDefault : Config := { variant := .wide, pdCodes := PdCodes.decided }

theorem test_invalid_padding_byte1 : decode narrowDefault [0x8C#8, 0x01#8] = .invalid .padding := by decide
theorem test_invalid_padding_byte0 : decode narrowDefault [0x8E#8, 0x00#8] = .invalid .padding := by decide
theorem test_invalid_mode : decode narrowDefault [0x90#8, 0x00#8] = .invalid .modeCode := by decide
theorem test_invalid_selector_00 : decode narrowDefault [0x00#8, 0x00#8] = .invalid .selector := by decide
theorem test_invalid_selector_11 : decode narrowDefault [0xC0#8, 0x00#8] = .invalid .selector := by decide
theorem test_invalid_wide_padding : decode wideDefault [0x40#8, 0x00#8, 0x20#8] = .invalid .padding := by decide
theorem test_invalid_length : decode wideDefault [0x8C#8, 0x00#8] = .invalid .length := by decide

/-! ## Well-formedness: one ill-formed term for each check -/

theorem test_wf_value : (Instr.wtN 0x4000#16).wf = false := by decide
theorem test_wf_value_top : (Instr.wtN 0x3FFF#16).wf = true := by decide
theorem test_wf_variant : (Instr.wtW 0x0000#16).wfOn .narrow = false := by decide
theorem test_wf_codes_gnd1k : ({ PdCodes.decided with gnd1k := 0b0100#4 } : PdCodes).wf = false := by decide
theorem test_wf_codes_distinct : ({ PdCodes.decided with hiz := 0b0010#4 } : PdCodes).wf = false := by decide
theorem test_wf_config : narrowDefault.wf = true := by decide
theorem test_wf_config_bad : ({ variant := .wide, pdCodes := { PdCodes.decided with normal := 0b0011#4 } } : Config).wf = false := by
  decide

/-! ## The encoder (95_test_vectors.md section 2.2) -/

theorem test_encode_pdN : encode PdCodes.decided (.pdN .gnd1k) = [0x8C#8, 0x00#8] := by decide
theorem test_encode_wtN_drops : encode PdCodes.decided (.wtN 0xC000#16) = [0x40#8, 0x00#8] := by decide
theorem test_encode_pdW : encode PdCodes.decided (.pdW .gnd1k) = [0x8C#8, 0x00#8, 0x00#8] := by decide
theorem test_encode_wtW : encode PdCodes.decided (.wtW 0x1234#16) = [0x44#8, 0x8D#8, 0x00#8] := by decide

/-! ## One step of each operation -/

-- S1, with the answers of 2.4 row 1
theorem test_wtN_s1 : seen (exec (.wtN 0x03FF#16) (testLive .narrow [.ok] [.ok, .ok])) =
    some ([.cs .high .ok, .cs .low .ok, .wr [0x43#8, 0xFF#8] .ok, .cs .high .ok], [.constructed, .result .ok],
      .high, .high, .idle) := by decide
-- R110 corner case d: 0xFFFF sends the frame of 0x3FFF and succeeds
theorem test_wtN_truncates : seen (exec (.wtN 0xFFFF#16) (testLive .narrow [.ok] [.ok, .ok])) =
    some ([.cs .high .ok, .cs .low .ok, .wr [0x7F#8, 0xFF#8] .ok, .cs .high .ok], [.constructed, .result .ok],
      .high, .high, .idle) := by decide
-- S2
theorem test_pdW_s2 : seen (exec (.pdW .gnd1k) (testLive .wide [.ok] [.ok, .ok])) =
    some ([.cs .high .ok, .cs .low .ok, .wr [0x8C#8, 0x00#8, 0x00#8] .ok, .cs .high .ok], [.constructed, .result .ok],
      .high, .high, .idle) := by decide
-- S3 with 2.4 row 8: all three answers are errors; the result is the transport's
theorem test_pdN_all_fail :
    seen (exec (.pdN .gnd1k) (testLive .narrow [.err 5] [.err 1 .high, .err 2 .low])) =
    some ([.cs .high .ok, .cs .low (.err 1), .wr [0x8C#8, 0x00#8] (.err 5), .cs .high (.err 2)],
      [.constructed, .result (.err 5)], .high, .low, .idle) := by decide
-- R111 corner case e: bit 15 lands in byte0[5]
theorem test_wtW_top_bit : seen (exec (.wtW 0x8000#16) (testLive .wide [.ok] [.ok, .ok])) =
    some ([.cs .high .ok, .cs .low .ok, .wr [0x60#8, 0x00#8, 0x00#8] .ok, .cs .high .ok], [.constructed, .result .ok],
      .high, .high, .idle) := by decide
-- 2.4 last row and P6: the transport never answers
theorem test_wtN_silent : seen (exec (.wtN 0x0100#16) (testLive .narrow [] [.ok])) =
    some ([.cs .high .ok, .cs .low .ok], [.constructed], .low, .low, .transferring) := by decide
-- 2.6: before CONSTRUCT a command is refused, and the other variant's always
theorem test_wtN_no_handle : refusalOf (exec (.wtN 0#16) (testDead .narrow [.ok] [])) = some .noHandle := by decide
theorem test_wtN_other_variant : refusalOf (exec (.wtN 0#16) (testLive .wide [.ok] [])) = some .otherVariant := by decide
-- 2.6: CONSTRUCT with the drive answered Err(c)
theorem test_construct_drive_fails :
    seen (perform (.construct 3 4) (testDead .narrow [] [.err 6 .low])) =
    some ([.cs .high .ok, .cs .high (.err 6)], [.constructed, .resources 7 9, .constructed], .high, .low, .idle) := by decide
theorem test_construct_while_live : refusalOf (perform (.construct 3 4) (testLive .narrow [] [])) = some .alreadyLive := by
  decide
-- T6
theorem test_destroy : seen (perform .destroy (testLive .wide [] [])) =
    some ([.cs .high .ok], [.constructed, .resources 7 9], .high, .high, .idle) := by decide
theorem test_destroy_twice : refusalOf (perform .destroy (testDead .wide [] [])) = some .noHandle := by decide
-- 2.6: any operation while TRANSFERRING
theorem test_busy : refusalOf (perform .destroy (testWaiting [])) = some .busy := by decide
theorem test_overlap : refusalOf (step { testWaiting [] with inputs := [.overlapping .destroy] }) = some .busy := by decide
-- 2.5, the row R124
theorem test_step_deassert : seen (step (testWaiting [.ok])) =
    some ([.cs .high .ok, .cs .low .ok, .wr [0x41#8, 0x00#8] .ok, .cs .high .ok], [.constructed], .high, .high,
      .deasserting) := by decide
-- R45: 0x8C is sent 1,0,0,0,1,1,0,0
theorem test_serial : (serialBits [0x8C#8, 0x00#8]).take 8 = [true, false, false, false, true, true, false, false] := by
  decide
-- P6: on line 2 the transport never answers, so it is silent from there on
theorem test_program_silent : lineAnswers
    [({ op := .construct 0 0 } : Line), { op := .wt 0x0100#16, tx := .never }, { op := .pd .normal }] = [] := by decide
-- S1 (95_test_vectors.md section 1): no answer is stated, and the result is Ok
theorem test_program_s1 : seen (core.run 2 (loadProgram PdCodes.decided
      { variant := .narrow, lines := [{ op := .construct 0 0 }, { op := .wt 0x03FF#16 }] })) =
    some ([.cs .high .ok, .cs .low .ok, .wr [0x43#8, 0xFF#8] .ok, .cs .high .ok], [.constructed, .result .ok],
      .high, .high, .idle) := by decide
-- R77 with lines 1 and 2 of P4, the first `cs:` left out: the second line's answers stay beside the second line
theorem test_program_cs_of_own_line : seen (core.run 2 (loadProgram PdCodes.decided
      { variant := .wide
        lines := [{ op := .construct 0 0 }, { op := .wt 0xABCD#16, tx := .answers .ok, cs := [.err 1 .high, .ok] }] })) =
    some ([.cs .high .ok, .cs .low (.err 1), .wr [0x6A#8, 0xF3#8, 0x40#8] .ok, .cs .high .ok],
      [.constructed, .result .ok], .high, .high, .idle) := by decide

/-! ## The placed word runs as the first step after reset -/

theorem test_first_pdN : ∃ t, step (State.reset.withFetchWord 16 0x8C00) = .next t ∧ t.phase = .idle := ⟨_, rfl, rfl⟩
theorem test_first_wtN : ∃ t, step (State.reset.withFetchWord 16 0x4000) = .next t ∧ t.phase = .idle := ⟨_, rfl, rfl⟩
theorem test_first_pdW : ∃ t, step (State.reset.withFetchWord 24 0x8C0000) = .next t ∧ t.phase = .idle := ⟨_, rfl, rfl⟩
theorem test_first_wtW : ∃ t, step (State.reset.withFetchWord 24 0x400000) = .next t ∧ t.phase = .idle := ⟨_, rfl, rfl⟩

/-! ## Witnesses: for every statement with hypotheses, a state and operands that meet them together -/

theorem testLive_ready (v : Variant) (tx : List TxAnswer) (cs : List LineAnswer) : (testLive v tx cs).Ready :=
  ⟨rfl, rfl⟩

theorem testLive_inv (v : Variant) (tx : List TxAnswer) (cs : List LineAnswer) : (testLive v tx cs).BlockInv := by
  constructor <;> simp [testLive, State.live]

theorem testWaiting_inv (tx : List TxAnswer) : (testWaiting tx).BlockInv := by
  constructor
  · exact fun _ => rfl
  · simp [testWaiting]
  · exact ⟨by simp [testWaiting], by simp only [testWaiting, testLive]; decide⟩
  · simp [testWaiting, testLive]

theorem witness_DecodeInvertsEncode :
    narrowDefault.wf = true ∧ (Instr.wtN 0x3FFF#16).variant = narrowDefault.variant ∧
      (Instr.wtN 0x3FFF#16).wf = true ∧ wideDefault.wf = true ∧ (Instr.pdW .normal).variant = wideDefault.variant := by decide
theorem witness_DecodeAcceptsOnlyProducedFrames :
    decode narrowDefault [0x7F#8, 0xFF#8] = .command (.wtN 0x3FFF#16) := by decide
/-- A byte list that is no frame, for the second clause: a wrong length. -/
theorem witness_no_frame (i : Instr) (h : i.variant = narrowDefault.variant) : ([] : List Byte) ≠ encode narrowDefault.pdCodes i := by
  cases i <;> simp [encode]
theorem witness_ValueBitsStandAtDataLsb : 13 < Variant.narrow.dataBits ∧ 15 < Variant.wide.dataBits := by decide
theorem witness_SerialOrder : [0x7F#8, 0xFF#8, 0xC0#8].length = Variant.wide.frameBytes ∧ 23 < Variant.wide.frameBits ∧
    [0x7F#8, 0xFF#8, 0xC0#8].head? = some 0x7F#8 := by decide
theorem witness_FailedWrite : [0x43#8, 0xFF#8].length = Variant.narrow.frameBytes ∧ 16 ≤ Variant.narrow.frameBits ∧
    wireMayCarry [0x43#8, 0xFF#8] (.err 1 : TxAnswer) [] ∧
    wireMayCarry [0x43#8, 0xFF#8] (.ok : TxAnswer) (serialBits [0x43#8, 0xFF#8]) := ⟨rfl, by decide, List.nil_prefix, rfl⟩
/-- The four command statements, the truncation statement and the report statement: admitted, with an answer to come. -/
theorem witness_command_answered (v : Variant) : (testLive v [.err 5] []).cfg.variant = v ∧ (testLive v [.err 5] []).Ready ∧
    (testLive v [.err 5] []).txAnswers = [.err 5] := ⟨rfl, ⟨rfl, rfl⟩, rfl⟩
/-- Their refused clause: no handle. -/
theorem witness_command_not_ready (v : Variant) : (testDead v [] []).cfg.variant = v ∧ ¬ (testDead v [] []).Ready :=
  ⟨rfl, fun h => Bool.noConfusion h.1⟩
theorem witness_other_variant : (Instr.pdN .hiz).variant ≠ (testLive .wide [] []).cfg.variant := by decide
theorem witness_ReturnedCommand : (testLive .wide [.err 5] []).BlockInv ∧
    (Instr.pdW .hiz).variant = (testLive .wide [.err 5] []).cfg.variant ∧ (testLive .wide [.err 5] []).Ready ∧
    (testLive .wide [.err 5] []).txAnswers ≠ [] := ⟨testLive_inv _ _ _, rfl, ⟨rfl, rfl⟩, by decide⟩
/-- P6: the next operation of the host is never taken. -/
theorem witness_SilentTransport : let s := { testLive .narrow [] [] with inputs := [.call (.pd .normal)] }
    (Instr.wtN 0x0100#16).variant = s.cfg.variant ∧ s.Ready ∧ s.WellUsed ∧ s.txAnswers = [] :=
  ⟨rfl, ⟨rfl, rfl⟩, fun i hi => ⟨.pd .normal, by simpa [testLive] using hi⟩, rfl⟩
theorem witness_FramerArrows_assert : (testLive .narrow [.ok] []).Ready := ⟨rfl, rfl⟩
theorem witness_FramerArrows_transfer : ({ testWaiting [] with phase := .asserting } : State).phase = .asserting := rfl
theorem witness_FramerArrows_deassert : (testWaiting [.err 5]).phase = .transferring ∧
    (testWaiting [.err 5]).frame = some [0x41#8, 0x00#8] ∧ (testWaiting [.err 5]).txAnswers = [.err 5] := ⟨rfl, rfl, rfl⟩
theorem witness_FramerArrows_wait : (testWaiting []).phase = .transferring ∧ (testWaiting []).txAnswers = [] := ⟨rfl, rfl⟩
theorem witness_FramerArrows_finish : let s := { testWaiting [] with phase := .deasserting, res := some (.err 5) }
    s.phase = .deasserting ∧ s.res = some (.err 5) := ⟨rfl, rfl⟩
theorem witness_FramerSteps : 3 ≤ 3 := by decide
theorem witness_LateAnswer : (testLive .wide [] []).txAnswers = [] ∧ 2 ≤ 2 := ⟨rfl, by decide⟩
theorem witness_OperationInProgress : (testWaiting [.err 5]).BlockInv ∧ (testWaiting [.err 5]).WellUsed ∧
    (testWaiting [.err 5]).phase ≠ .idle ∧ (testWaiting [.err 5]).txAnswers ≠ [] :=
  ⟨testWaiting_inv _, fun i hi => by simp [testWaiting, testLive] at hi, by decide, by decide⟩
theorem witness_idle_nothing_presented : (testLive .narrow [] []).WellUsed ∧ (testLive .narrow [] []).phase = .idle ∧
    (testLive .narrow [] []).inputs = [] := ⟨fun i hi => by simp [testLive] at hi, rfl, rfl⟩
theorem witness_Construct : (testDead .narrow [] []).live = false ∧ (testDead .narrow [] []).phase = .idle ∧
    (testLive .narrow [] []).live = true := by decide
theorem witness_Destroy : (testLive .wide [] []).handle = some { transport := 7, line := 9 } ∧
    (testLive .wide [] []).phase = .idle ∧ (HostOp.wt 0xFFFF#16).isCommand = true := by decide
theorem witness_Admission : HostOp.Admitted (testLive .narrow [] []) (.pd .normal) ∧
    HostOp.Admitted (testDead .narrow [] []) (.construct 0 0) ∧ ¬ HostOp.Admitted (testWaiting []) .destroy :=
  ⟨⟨rfl, rfl⟩, ⟨rfl, rfl⟩, fun h => Phase.noConfusion h.1⟩
theorem witness_misuse : let s := { testWaiting [] with inputs := [.overlapping .destroy] }
    let t := { testLive .wide [] [] with inputs := [.contended .destroy (.pd .normal)] }
    s.inputs = [.overlapping .destroy] ∧ t.inputs = [.contended .destroy (.pd .normal)] := ⟨rfl, rfl⟩
theorem witness_outsiders : let s := { testLive .narrow [] [] with inputs := [.outsideDrive .low] }
    let t := { testDead .narrow [] [] with inputs := [.outsideWrite [0x00#8]] }
    s.inputs = [.outsideDrive .low] ∧ s.live = true ∧ t.inputs = [.outsideWrite [0x00#8]] ∧ t.live = false := by decide
/-- The other two clauses: an outside drive with no handle, and an outside write with one. -/
theorem witness_outsiders_swapped : let s := { testDead .wide [] [] with inputs := [.outsideDrive .low] }
    let t := { testLive .wide [] [] with inputs := [.outsideWrite [0x8C#8, 0x00#8, 0x00#8]] }
    s.inputs = [.outsideDrive .low] ∧ s.live = false ∧ t.inputs = [.outsideWrite [0x8C#8, 0x00#8, 0x00#8]] ∧
      t.live = true := by decide
theorem witness_StepRuns : let s := { testLive .wide [.ok] [] with inputs := [.call (.wt 0xABCD#16)] }
    s.phase = .idle ∧ s.inputs = [.call (.wt 0xABCD#16)] ∧
      (HostOp.wt 0xABCD#16).instr s.cfg.variant = some (.wtW 0xABCD#16) := by decide
theorem witness_PlacedWord : decodeTableWord 24 0x7FFFC0 = some (.wtW 0xFFFF#16) := by decide
/-- A step to a next state from a state that meets all four invariants. -/
theorem witness_invariants : let s := testWaiting [.ok]
    s.BlockInv ∧ s.TraceInv ∧ s.CountInv ∧ s.PhysInv ∧ ∃ t, step s = .next t := by
  refine ⟨testWaiting_inv _, Or.inr rfl, ?_, fun _ _ => rfl, _, rfl⟩
  constructor <;> decide
/-- Two different states that differ only in what the control line answers. -/
theorem witness_DriveAnswers : (testLive .narrow [.ok] [.ok]).lineBlind = (testLive .narrow [.ok] [.err 1 .low]).lineBlind ∧
    testLive .narrow [.ok] [.ok] ≠ testLive .narrow [.ok] [.err 1 .low] := by decide
/-- Two coming answers of the control line, one an error. -/
theorem witness_ErrorValues : 2 ≤ (testLive .narrow [.err 5] [.err 1 .low, .ok]).csAnswers.length := by decide
theorem witness_FailedDrive : (testLive .narrow [] [.ok]).lineAnswer 0 = .ok ∧
    (testLive .narrow [] [.err 1 .low]).lineAnswer 0 = .err 1 .low := ⟨rfl, rfl⟩
/-- P1 from `CONSTRUCT` on, as a program of the grammar with its answers. -/
theorem witness_Runs : let ops : List HostOp := [.construct 3 4, .wt 0x03FF#16, .pd .gnd1k, .destroy]
    let s := { testDead .narrow [.ok, .ok] [] with inputs := ops.map Input.call }
    s.live = false ∧ s.Runs ops ∧ (∀ op ∈ [HostOp.wt 0x03FF#16, .pd .gnd1k], op.isCommand = true) ∧
      ∃ t, core.run ops.length s = .next t :=
  ⟨rfl, ⟨rfl, rfl, by decide⟩, by decide, _, rfl⟩
/-- P2 up to its retry: a program of the grammar, every command answered, one with an error. -/
theorem witness_LoadedProgram : let p : Program := { variant := .wide
                                                     lines := [{ op := .construct 3 4, cs := [.err 1 .low] },
                                                       { op := .pd .gnd1k, tx := .answers (.err 2) },
                                                       { op := .pd .gnd1k }] }
    (∀ l ∈ p.lines, l.op.isCommand = true → l.tx ≠ .never) ∧ Lifecycle (p.lines.map Line.op) :=
  ⟨by decide, [], some { transport := 3, line := 4, commands := [.pd .gnd1k, .pd .gnd1k] }, by decide, rfl⟩
/-- P6: the second line's command is never answered, and a third line follows. -/
theorem witness_SilentLine : let l : Line := { op := .wt 0x0100#16, tx := .never }
    let before : List Line := [{ op := .construct 3 4 }]
    let p : Program := { variant := .narrow, lines := before ++ l :: [{ op := .pd .normal }] }
    p.lines = before ++ l :: [{ op := .pd .normal }] ∧ (∀ x ∈ before, x.op.isCommand = true → x.tx ≠ .never) ∧
      l.op.isCommand = true ∧ l.tx = .never ∧ Lifecycle ((before ++ [l]).map Line.op) :=
  ⟨rfl, by decide, rfl, rfl, [], some { transport := 3, line := 4, commands := [.wt 0x0100#16] }, by decide, rfl⟩

end Sys2Proof.Machine
end

section
/-! PROOFS. The bits of a frame: as bits of the frame's number (R10), and in serial order (R44, R45). -/

namespace Sys2Proof.Machine

theorem frameNumber_snoc (bytes : List Byte) (b : Byte) :
    frameNumber (bytes ++ [b]) = 2 ^ 8 * frameNumber bytes + b.toNat := by
  simp [frameNumber, Nat.mul_comm]

/-- The last byte carries the low eight bits, the bytes before it the bits above. -/
theorem testBit_frameNumber_snoc (bytes : List Byte) (b : Byte) (k : Nat) :
    (frameNumber (bytes ++ [b])).testBit k =
      if k < 8 then b.getLsbD k else (frameNumber bytes).testBit (k - 8) := by
  rw [frameNumber_snoc, Nat.testBit_two_pow_mul_add _ b.isLt, BitVec.testBit_toNat]

theorem testBit_frameNumber_singleton (b : Byte) (k : Nat) : (frameNumber [b]).testBit k = b.getLsbD k := by
  simp [frameNumber, BitVec.testBit_toNat]

theorem testBit_frameNumber_pair (b0 b1 : Byte) (k : Nat) :
    (frameNumber [b0, b1]).testBit k = if k < 8 then b1.getLsbD k else b0.getLsbD (k - 8) := by
  rw [← testBit_frameNumber_singleton b0, ← testBit_frameNumber_snoc]
  rfl

theorem testBit_frameNumber_triple (b0 b1 b2 : Byte) (k : Nat) :
    (frameNumber [b0, b1, b2]).testBit k =
      if k < 8 then b2.getLsbD k else if k - 8 < 8 then b1.getLsbD (k - 8) else b0.getLsbD (k - 8 - 8) := by
  rw [← testBit_frameNumber_pair b0, ← testBit_frameNumber_snoc]
  rfl

/-! ### Where the bits of a value stand -/

theorem getLsbD_trunc8 {n : Nat} (v : BitVec n) {k : Nat} (h : k < 8) : (trunc8 v).getLsbD k = v.getLsbD k := by
  simp [trunc8, h]

/-- The selector and the mask of a write-through frame leave bits 5:0 of byte 0 alone. -/
theorem wtByte0_masks : ∀ k < 6, (0x40#8).getLsbD k = false ∧ (0x3F#8).getLsbD k = true := by
  decide

theorem getLsbD_wtFrameN_byte0 (v : Value) {k : Nat} (h : k < 6) :
    (0x40#8 ||| (trunc8 (v >>> 8) &&& 0x3F#8)).getLsbD k = v.getLsbD (8 + k) := by
  obtain ⟨hsel, hmask⟩ := wtByte0_masks k h
  rw [BitVec.getLsbD_or, BitVec.getLsbD_and, hsel, hmask, getLsbD_trunc8 _ (by omega), BitVec.getLsbD_ushiftRight]
  simp

theorem getLsbD_wtFrameW_byte0 (v : Value) {k : Nat} (h : k < 6) :
    (0x40#8 ||| trunc8 (v >>> 10)).getLsbD k = v.getLsbD (10 + k) := by
  rw [BitVec.getLsbD_or, (wtByte0_masks k h).1, getLsbD_trunc8 _ (by omega), BitVec.getLsbD_ushiftRight,
    Bool.false_or]

theorem getLsbD_wtFrameW_byte2 (v : Value) {k : Nat} (h : k < 2) :
    (trunc8 (v &&& 0x0003#16) <<< 6).getLsbD (6 + k) = v.getLsbD k := by
  have hmask : ∀ k < 2, (0x0003#16).getLsbD k = true := by decide
  rw [BitVec.getLsbD_shiftLeft, Nat.add_sub_cancel_left, getLsbD_trunc8 _ (by omega), BitVec.getLsbD_and, hmask k h]
  simp
  omega

theorem testBit_frameNumber_wtFrameN (v : Value) {k : Nat} (h : k < 14) :
    (frameNumber (wtFrameN v)).testBit k = v.getLsbD k := by
  rw [wtFrameN, testBit_frameNumber_pair]
  split
  · next hlow => exact getLsbD_trunc8 v hlow
  · next hhigh =>
    rw [getLsbD_wtFrameN_byte0 v (by omega)]
    congr 1
    omega

theorem testBit_frameNumber_wtFrameW (v : Value) {k : Nat} (h : k < 16) :
    (frameNumber (wtFrameW v)).testBit (6 + k) = v.getLsbD k := by
  rw [wtFrameW, testBit_frameNumber_triple]
  split
  · next hlow => exact getLsbD_wtFrameW_byte2 v (by omega)
  · split
    · next hmid =>
      rw [getLsbD_trunc8 _ hmid, BitVec.getLsbD_ushiftRight]
      congr 1
      omega
    · next hhigh =>
      rw [getLsbD_wtFrameW_byte0 v (by omega)]
      congr 1
      omega

/-! ### Serial order -/

@[simp] theorem serialByte_length (b : Byte) : (serialByte b).length = 8 := rfl

theorem serialByte_getElem? (b : Byte) {k : Nat} (h : k < 8) : (serialByte b)[k]? = some (b.getLsbD (7 - k)) := by
  interval_cases k <;> rfl

theorem serialBits_snoc (bytes : List Byte) (b : Byte) : serialBits (bytes ++ [b]) = serialBits bytes ++ serialByte b := by
  simp [serialBits]

@[simp] theorem serialBits_length (bytes : List Byte) : (serialBits bytes).length = 8 * bytes.length := by
  simp [serialBits, List.length_flatMap, Nat.mul_comm]

/-- The bits of any byte list go most significant first, counted from the top of the frame's number. -/
theorem serialBits_getElem? (bytes : List Byte) (k : Nat) (h : k < 8 * bytes.length) :
    (serialBits bytes)[k]? = some ((frameNumber bytes).testBit (8 * bytes.length - 1 - k)) := by
  induction bytes using List.reverseRecOn with
  | nil => simp at h
  | append_singleton bytes b ih =>
    rw [serialBits_snoc, testBit_frameNumber_snoc]
    rw [List.length_append, List.length_singleton] at h ⊢
    by_cases hk : k < 8 * bytes.length
    · rw [List.getElem?_append_left (by simpa using hk), ih hk, if_neg (by omega)]
      congr 2
      omega
    · rw [List.getElem?_append_right (by simpa using hk), serialBits_length, serialByte_getElem? b (by omega),
        if_pos (by omega)]
      congr 2
      omega

theorem serialBits_cons_take_two (b : Byte) (bytes : List Byte) :
    (serialBits (b :: bytes)).take 2 = [(selOf b).getLsbD 1, (selOf b).getLsbD 0] := by
  simp [serialBits, serialByte, selOf]

end Sys2Proof.Machine

open Sys2Proof Sys2Proof.Machine

/-- Settles O8: a value's bits byte by byte. -/
theorem valueBitsStandAtDataLsb : Obligations.ValueBitsStandAtDataLsb := by
  unfold Obligations.ValueBitsStandAtDataLsb
  intro value k
  refine ⟨fun h => ?_, fun h => testBit_frameNumber_wtFrameW value h⟩
  rw [Variant.dataLsb, Nat.zero_add]
  exact testBit_frameNumber_wtFrameN value h

/-- Settles O9, by induction on the byte list from its last byte. -/
theorem serialOrderIsMostSignificantFirst : Obligations.SerialOrderIsMostSignificantFirst := by
  unfold Obligations.SerialOrderIsMostSignificantFirst
  intro v bytes hlen
  rw [Variant.frameBits, ← hlen]
  refine ⟨serialBits_length bytes, serialBits_getElem? bytes, fun b hb => ?_⟩
  obtain ⟨rest, rfl⟩ := List.head?_eq_some_iff.mp hb
  exact serialBits_cons_take_two b rest

end

section
/-! PROOFS. One step: a command of the other variant, what every step keeps, and the independence of the error kinds. -/

namespace Sys2Proof.Machine

variable {TErr CErr : Type}

/-! ### A command of the other variant -/

theorem command_other_variant {s : State TErr CErr} {v : Variant} (f : List Byte) (h : s.cfg.variant ≠ v) :
    command v f s = .refused .otherVariant :=
  if_neg h

/-! ### The framer's last two steps in closed form, whatever `FRAME` and `RES` hold -/

theorem deassertStep_closed (r : TxAnswer TErr) (s : State TErr CErr) :
    deassertStep r s =
      { s with
        phase := .deasserting
        csCmd := .high
        res := some r
        csPhys := lineLevel .high (s.lineAnswer 0)
        trace := s.trace ++ (s.frame.toList.map (.wr · r) ++ [.cs .high (lineEvent (s.lineAnswer 0))])
        txAnswers := s.txAnswers.tail
        csAnswers := s.csAnswers.tail
        draws := s.draws + 1 } := by
  cases h : s.frame <;> simp [deassertStep, h, State.csSet, State.txAnswered, State.lineAnswer]

theorem finishStep_closed (s : State TErr CErr) :
    finishStep s =
      { s with
        phase := .idle
        frame := none
        res := none
        returned := s.returned ++ s.res.toList.map .result } := by
  cases h : s.res <;> simp [finishStep, h, State.giveBack]

/-! ### What every step keeps -/

/-- `t` has the parameters of `s` and at least the history of `s` (R8, R29, R56). -/
structure State.Extends (s t : State TErr CErr) : Prop where
  cfg      : t.cfg = s.cfg
  trace    : s.trace <+: t.trace
  returned : s.returned <+: t.returned

/-- Every step to a next state, for any types of error kinds: in each case of `stepOn_next_closed` the two lists are the old
ones with something, or nothing, appended. -/
theorem stepOn_extends {s t : State TErr CErr} (h : stepOn s = .next t) : s.Extends t := by
  rcases stepOn_next_closed h with rfl | ⟨-, rfl⟩ | ⟨r, -, -, -, rfl⟩ | ⟨-, rfl⟩ | ⟨x, l, rest, -, -, rfl⟩ |
    ⟨hd, rest, -, -, rfl⟩ | ⟨i, rest, r, -, -, rfl⟩ | ⟨i, rest, -, -, -, rfl⟩ | ⟨level, rest, -, rfl⟩ | ⟨rest, -, rfl⟩
  all_goals constructor <;> simp [deassertStep_closed, finishStep_closed]

/-! ### Independence of the error kinds (R8, decision D17)

Renaming passes through every operation, as long as the answers the control line gives are the renamed ones. -/

section Renaming

variable {TErr' CErr' : Type} {f : TErr → TErr'} {g : CErr → CErr'} {s : State TErr CErr}

/-- The next drive answers, two at most in one step, are renamed with the rest of the state. -/
def State.DrawsRename (f : TErr → TErr') (g : CErr → CErr') (s : State TErr CErr) : Prop :=
  ∀ k < 2, (s.rename f g).lineAnswer k = renameLine g (s.lineAnswer k)

/-- The control line's error kinds unchanged: scripted and free answers alike stay as they are. -/
theorem drawsRename_id (f : TErr → TErr') (s : State TErr CErr) : s.DrawsRename f id := by
  intro k _
  have hid : (renameLine id : LineAnswer CErr → LineAnswer CErr) = id := funext (renameLine_id (CErr := CErr))
  simp [State.lineAnswer, hid]

/-- No free answer is drawn. -/
theorem drawsRename_of_scripted (f : TErr → TErr') (g : CErr → CErr') (h : 2 ≤ s.csAnswers.length) :
    s.DrawsRename f g := by
  intro k hk
  have hk : k < s.csAnswers.length := by omega
  simp [State.lineAnswer, hk]

theorem rename_csSet (level : Level) (h : s.DrawsRename f g) :
    (s.csSet level).rename f g = (s.rename f g).csSet level := by
  simp only [State.csSet, h 0 (by decide), lineLevel_rename, lineEvent_rename]
  simp [State.rename, Event.rename]

theorem rename_giveBack (r : Return TErr) : (s.giveBack r).rename f g = (s.rename f g).giveBack (r.rename f) := by
  simp [State.giveBack, State.rename]

theorem rename_construct (x : TransportToken) (l : LineToken) (h : s.DrawsRename f g) :
    (construct x l s).rename f g = construct x l (s.rename f g) := by
  rw [construct, rename_giveBack, construct, ← rename_csSet .high h]
  rfl

theorem rename_afterTransfer (bytes : List Byte) (r : TxAnswer TErr) (h : s.DrawsRename f g) :
    (s.afterTransfer bytes r).rename f g = (s.rename f g).afterTransfer bytes (renameTx f r) := by
  simp only [State.afterTransfer, h 0 (by decide), h 1 (by decide), lineLevel_rename, lineEvent_rename]
  simp [State.rename, Event.rename, Return.rename]

theorem rename_awaitingTransport (bytes : List Byte) (h : s.DrawsRename f g) :
    (s.awaitingTransport bytes).rename f g = (s.rename f g).awaitingTransport bytes := by
  simp only [State.awaitingTransport, h 0 (by decide), lineLevel_rename, lineEvent_rename]
  simp [State.rename, Event.rename]

theorem rename_send (bytes : List Byte) (h : s.DrawsRename f g) :
    (send bytes s).rename f g = send bytes (s.rename f g) := by
  cases ht : s.txAnswers with
  | nil =>
    have ht' : (s.rename f g).txAnswers = [] := congrArg (List.map (renameTx f)) ht
    rw [send_silent bytes ht, send_silent bytes ht', rename_awaitingTransport bytes h]
  | cons r rest =>
    have ht' : (s.rename f g).txAnswers = renameTx f r :: rest.map (renameTx f) := congrArg (List.map (renameTx f)) ht
    rw [send_answered bytes ht, send_answered bytes ht', rename_afterTransfer bytes r h]

theorem rename_deassertStep (r : TxAnswer TErr) (h : s.DrawsRename f g) :
    (deassertStep r s).rename f g = deassertStep (renameTx f r) (s.rename f g) := by
  simp only [deassertStep_closed, h 0 (by decide), lineLevel_rename, lineEvent_rename]
  simp [State.rename, Event.rename]

theorem rename_finishStep : (finishStep s).rename f g = finishStep (s.rename f g) := by
  simp only [finishStep_closed]
  cases hr : s.res <;> simp [State.rename, Return.rename, hr]

theorem rename_framerStep (h : s.DrawsRename f g) : (framerStep s).rename f g = framerStep (s.rename f g) := by
  unfold framerStep
  rw [rename_phase, rename_txAnswers]
  cases s.phase with
  | idle => rfl
  | asserting => rfl
  | transferring =>
    cases s.txAnswers with
    | nil => rfl
    | cons r rest => exact rename_deassertStep r h
  | deasserting => exact rename_finishStep

/-! Outcomes: a refusal does not depend on an error value, and a next state is renamed. -/

theorem mapNext_command (v : Variant) (bytes : List Byte) (h : s.DrawsRename f g) :
    mapNext (State.rename f g) (command v bytes s) = command v bytes (s.rename f g) := by
  have hadm : (s.rename f g).notAdmitted = s.notAdmitted := rfl
  unfold command
  rw [rename_cfg, hadm, ← rename_send bytes h]
  split
  · cases s.notAdmitted <;> rfl
  · rfl

theorem mapNext_execConstruct (x : TransportToken) (l : LineToken) (h : s.DrawsRename f g) :
    mapNext (State.rename f g) (execConstruct x l s) = execConstruct x l (s.rename f g) := by
  have hadm : (s.rename f g).constructNotAdmitted = s.constructNotAdmitted := rfl
  unfold execConstruct
  rw [hadm, ← rename_construct x l h]
  cases s.constructNotAdmitted <;> rfl

theorem mapNext_execDestroy : mapNext (State.rename f g) (execDestroy s) = execDestroy (s.rename f g) := by
  have hadm : (s.rename f g).notAdmitted = s.notAdmitted := rfl
  unfold execDestroy
  rw [hadm, rename_handle]
  cases s.notAdmitted with
  | some r => rfl
  | none =>
    cases s.handle with
    | none => rfl
    | some hd => exact congrArg Host.Outcome.next (rename_giveBack _)

theorem mapNext_perform (op : HostOp) (h : s.DrawsRename f g) :
    mapNext (State.rename f g) (perform op s) = perform op (s.rename f g) := by
  have command_case {i : Instr} (hi : op.instr s.cfg.variant = some i) :
      mapNext (State.rename f g) (perform op s) = perform op (s.rename f g) := by
    rw [(perform_instr hi).1, (perform_instr (s := s.rename f g) hi).1, mapNext_command _ _ h]
    rfl
  cases op with
  | construct x l => exact mapNext_execConstruct x l h
  | destroy => exact mapNext_execDestroy
  | pd m => exact command_case rfl
  | wt x => exact command_case rfl

/-- Renaming and one step: the same outcome in either order. -/
theorem mapNext_stepOn (h : s.DrawsRename f g) :
    mapNext (State.rename f g) (stepOn s) = stepOn (s.rename f g) := by
  have hframer : mapNext (State.rename f g) (.next (framerStep s)) = .next (framerStep (s.rename f g)) :=
    congrArg Host.Outcome.next (rename_framerStep h)
  unfold stepOn
  rw [rename_inputs]
  cases s.inputs with
  | nil => exact hframer
  | cons input rest =>
    cases input with
    | call op =>
      have hop := mapNext_perform (f := f) (s := { s with inputs := rest }) op h
      exact (apply_ite (mapNext (State.rename f g)) ..).trans (if_congr Iff.rfl hop hframer)
    | overlapping op => rfl
    | contended op₁ op₂ => rfl
    | outsideDrive level => exact apply_ite (mapNext (State.rename f g)) ..
    | outsideWrite bytes => exact apply_ite (mapNext (State.rename f g)) ..

end Renaming

end Sys2Proof.Machine

open Sys2Proof Sys2Proof.Machine

/-- Settles O15: every instruction's meaning is `command` with its own variant. -/
theorem otherVariantCommandIsRefused : Obligations.OtherVariantCommandIsRefused := by
  unfold Obligations.OtherVariantCommandIsRefused
  intro i s h
  rw [exec_eq_command]
  exact command_other_variant _ h.symm

/-- Settles O31, from the list of all next states a step can have. -/
theorem stepKeepsParametersAndHistory : Obligations.StepKeepsParametersAndHistory := by
  unfold Obligations.StepKeepsParametersAndHistory
  intro s t h
  obtain ⟨hcfg, htrace, hreturned⟩ := stepOn_extends h
  exact ⟨hcfg, htrace, hreturned⟩

/-- Settles O33: renaming passes through every operation of a step, as long as the drives are answered alike. -/
theorem errorValuesPassThroughUnread : Obligations.ErrorValuesPassThroughUnread := by
  unfold Obligations.ErrorValuesPassThroughUnread
  exact ⟨fun _ _ _ f s => mapNext_stepOn (drawsRename_id f s),
    fun _ _ _ g _ h => mapNext_stepOn (drawsRename_of_scripted id g h), step_eq_stepOn⟩

end

section
/-! PROOFS. The state: the invariant of the five elements, the physical level, power-on, the placing of a word, and a
handle's life from `CONSTRUCT` to `DESTROY`. -/

namespace Sys2Proof.Machine

variable {TErr CErr : Type}

/-! ### The invariant of the five elements, between operations and during one -/

/-- Between operations: nothing is held, and the line is high once it has been driven (R24, R25, R32). -/
theorem blockInv_iff_of_idle {s : State TErr CErr} (hp : s.phase = .idle) :
    s.BlockInv ↔ s.frame = none ∧ s.res = none ∧ (s.live = true ∨ s.trace ≠ [] → s.csCmd = .high) := by
  constructor
  · rintro ⟨-, hline, hframe, hres⟩
    refine ⟨?_, by simpa [hp] using hres, fun hd => ?_⟩
    · cases hf : s.frame with
      | none => rfl
      | some f => simp [hf, hp] at hframe
    · cases hc : s.csCmd with
      | high => rfl
      | low => simpa [hp] using (hline hd).mp hc
  · rintro ⟨hframe, hres, hline⟩
    exact ⟨fun h => absurd hp h, fun hd => by simp [hp, hline hd], by simp [hframe, hp], by simp [hres, hp]⟩

/-- During an operation: there is a handle and a legal frame, and the line and `RES` follow `PHASE` (R22 to R25, R32). -/
theorem blockInv_iff_of_busy {s : State TErr CErr} (hp : s.phase ≠ .idle) :
    s.BlockInv ↔ s.live = true ∧ (∃ f, s.frame = some f ∧ legalFrame s.cfg.variant f = true) ∧
      (s.csCmd = .low ↔ s.phase = .asserting ∨ s.phase = .transferring) ∧
      (s.res.isSome = true ↔ s.phase = .deasserting) := by
  constructor
  · rintro ⟨hlive, hline, hframe, hres⟩
    refine ⟨hlive hp, ?_, hline (.inl (hlive hp)), hres⟩
    cases hf : s.frame with
    | none => simp [hf, hp] at hframe
    | some f =>
      simp only [hf] at hframe
      exact ⟨f, rfl, hframe.2⟩
  · rintro ⟨hlive, ⟨f, hf, hlegal⟩, hline, hres⟩
    exact ⟨fun _ => hlive, fun _ => hline, by simp [hf, hp, hlegal], hres⟩

/-! ### Each next state of a step meets it -/

theorem blockInv_transferStep {s : State TErr CErr} (hs : s.BlockInv) (hp : s.phase = .asserting) :
    (transferStep s).BlockInv := by
  obtain ⟨hlive, hframe, hline, hres⟩ := (blockInv_iff_of_busy (by simp [hp])).mp hs
  refine (blockInv_iff_of_busy (by simp)).mpr ⟨hlive, hframe, ?_, ?_⟩
  · simpa [hp] using hline
  · simpa [hp] using hres

theorem blockInv_deassertStep {s : State TErr CErr} (r : TxAnswer TErr) (hs : s.BlockInv) (hp : s.phase = .transferring) :
    (deassertStep r s).BlockInv := by
  obtain ⟨hlive, hframe, -, -⟩ := (blockInv_iff_of_busy (by simp [hp])).mp hs
  rw [deassertStep_closed]
  exact (blockInv_iff_of_busy (by simp)).mpr ⟨hlive, hframe, by simp, by simp⟩

theorem blockInv_finishStep {s : State TErr CErr} (hs : s.BlockInv) (hp : s.phase = .deasserting) :
    (finishStep s).BlockInv := by
  obtain ⟨-, -, hline, -⟩ := (blockInv_iff_of_busy (by simp [hp])).mp hs
  have hhigh : s.csCmd = .high := by
    cases hc : s.csCmd with
    | high => rfl
    | low => simpa [hp] using hline.mp hc
  rw [finishStep_closed]
  exact (blockInv_iff_of_idle rfl).mpr ⟨rfl, rfl, fun _ => hhigh⟩

theorem blockInv_construct {s : State TErr CErr} (x : TransportToken) (l : LineToken) (hs : s.BlockInv)
    (hp : s.phase = .idle) : (construct x l s).BlockInv := by
  obtain ⟨hframe, hres, -⟩ := (blockInv_iff_of_idle hp).mp hs
  exact (blockInv_iff_of_idle rfl).mpr ⟨hframe, hres, fun _ => rfl⟩

theorem blockInv_afterTransfer {s : State TErr CErr} (bytes : List Byte) (r : TxAnswer TErr) :
    (s.afterTransfer bytes r).BlockInv :=
  (blockInv_iff_of_idle rfl).mpr ⟨rfl, rfl, fun _ => rfl⟩

theorem blockInv_awaitingTransport {s : State TErr CErr} {bytes : List Byte} (hs : s.BlockInv) (hr : s.Ready)
    (hlegal : legalFrame s.cfg.variant bytes = true) : (s.awaitingTransport bytes).BlockInv := by
  obtain ⟨hlive, hp⟩ := hr
  obtain ⟨-, hres, -⟩ := (blockInv_iff_of_idle hp).mp hs
  exact (blockInv_iff_of_busy (by simp)).mpr ⟨hlive, ⟨bytes, rfl, hlegal⟩, by simp, by simp [hres]⟩

/-- The invariant does not look at what the outside does next. -/
theorem blockInv_with_inputs {s : State TErr CErr} (rest : List Input) (hs : s.BlockInv) :
    ({ s with inputs := rest } : State TErr CErr).BlockInv :=
  ⟨hs.busy_live, hs.line_level, hs.frame_held, hs.res_held⟩

/-- A step that changes none of the five elements but the handle, and that only by taking it away in `IDLE`, keeps the
invariant: `DESTROY`, and the moves of outsiders. -/
theorem blockInv_of_handle_gone {s t : State TErr CErr} (hs : s.BlockInv) (hp : s.phase = .idle)
    (hphase : t.phase = s.phase) (hcmd : t.csCmd = s.csCmd) (hframe : t.frame = s.frame) (hres : t.res = s.res)
    (htrace : t.trace = s.trace) (hlive : t.live = false) : t.BlockInv := by
  obtain ⟨hf, hr, hline⟩ := (blockInv_iff_of_idle hp).mp hs
  rw [blockInv_iff_of_idle (hphase.trans hp), hcmd, hframe, hres, htrace, hlive]
  exact ⟨hf, hr, fun hd => hline (.inr (by simpa using hd))⟩

/-- Every step keeps the invariant, for any types of error kinds. -/
theorem stepOn_keeps_blockInv {s t : State TErr CErr} (hs : s.BlockInv) (h : stepOn s = .next t) : t.BlockInv := by
  have idle_of_dead (hl : s.live = false) : s.phase = .idle := by
    by_contra hp
    simp [hs.busy_live hp] at hl
  rcases stepOn_next_closed h with rfl | ⟨hp, rfl⟩ | ⟨r, -, hp, -, rfl⟩ | ⟨hp, rfl⟩ | ⟨x, l, rest, -, hp, rfl⟩ |
    ⟨hd, rest, -, hp, rfl⟩ | ⟨i, rest, r, -, -, rfl⟩ | ⟨i, rest, hi, hr, -, rfl⟩ | ⟨level, rest, hl, rfl⟩ |
    ⟨rest, hl, rfl⟩
  · -- the block waits
    exact hs
  · -- ASSERTING
    exact blockInv_transferStep hs hp
  · -- TRANSFERRING, answered
    exact blockInv_deassertStep r hs hp
  · -- DEASSERTING
    exact blockInv_finishStep hs hp
  · -- CONSTRUCT
    exact blockInv_construct x l (blockInv_with_inputs rest hs) hp
  · -- DESTROY
    exact blockInv_of_handle_gone hs hp rfl rfl rfl rfl rfl rfl
  · -- a command, answered
    exact blockInv_afterTransfer _ r
  · -- a command, not answered
    exact blockInv_awaitingTransport (blockInv_with_inputs rest hs) hr
      (hi ▸ legalFrame_frameOf s.cfg.pdCodes i)
  · -- an outsider drives
    exact blockInv_of_handle_gone hs (idle_of_dead hl) rfl rfl rfl rfl rfl hl
  · -- an outsider writes
    exact blockInv_of_handle_gone hs (idle_of_dead hl) rfl rfl rfl rfl rfl hl

/-! ### The physical level -/

/-- A drive answered `Ok` puts the line where it was asked to (R28). -/
theorem lineLevel_of_ok {level : Level} {a : LineAnswer CErr} (h : lineEvent a = .ok) : lineLevel level a = level := by
  cases a with
  | ok => rfl
  | err c leaves => cases h

/-- A state whose last drive request was for the commanded level, answered by `a`, with the level that answer leaves. -/
theorem physInv_of_driven {s : State TErr CErr} {events : List (Event TErr CErr)} {a : LineAnswer CErr}
    (htrace : s.trace = events ++ [.cs s.csCmd (lineEvent a)]) (hphys : s.csPhys = lineLevel s.csCmd a) :
    s.PhysInv := by
  intro _ hlast
  have hok : lineEvent a = .ok := by simpa [htrace, Event.csAnswer?] using hlast
  rw [hphys, lineLevel_of_ok hok]

/-- Without a handle nothing is claimed of the level. -/
theorem physInv_of_dead {s : State TErr CErr} (h : s.live = false) : s.PhysInv := by
  intro hlive
  simp [h] at hlive

/-- Every step keeps it, for any types of error kinds. -/
theorem stepOn_keeps_physInv {s t : State TErr CErr} (hs : s.PhysInv) (h : stepOn s = .next t) : t.PhysInv := by
  rcases stepOn_next_closed h with rfl | ⟨-, rfl⟩ | ⟨r, -, -, -, rfl⟩ | ⟨-, rfl⟩ | ⟨x, l, rest, -, -, rfl⟩ |
    ⟨hd, rest, -, -, rfl⟩ | ⟨i, rest, r, -, -, rfl⟩ | ⟨i, rest, -, -, -, rfl⟩ | ⟨level, rest, hl, rfl⟩ | ⟨rest, hl, rfl⟩
  · -- the block waits
    exact hs
  · -- ASSERTING
    exact hs
  · -- TRANSFERRING, answered
    rw [deassertStep_closed]
    exact physInv_of_driven (List.append_assoc ..).symm rfl
  · -- DEASSERTING
    rw [finishStep_closed]
    exact hs
  · -- CONSTRUCT
    exact physInv_of_driven rfl rfl
  · -- DESTROY
    exact physInv_of_dead rfl
  · -- a command, answered
    exact physInv_of_driven (List.append_assoc _ [_, _] [_]).symm rfl
  · -- a command, not answered
    exact physInv_of_driven rfl rfl
  · -- an outsider drives
    exact physInv_of_dead hl
  · -- an outsider writes
    exact physInv_of_dead hl

/-! ### Power-on -/

theorem powerOn_blockInv (cfg : Config) : (State.powerOn cfg : State TErr CErr).BlockInv :=
  (blockInv_iff_of_idle rfl).mpr ⟨rfl, rfl, fun hd => by simp [State.powerOn, State.live] at hd⟩

theorem powerOn_traceInv (cfg : Config) : (State.powerOn cfg : State TErr CErr).TraceInv :=
  ⟨rfl, rfl⟩

theorem powerOn_countInv (cfg : Config) : (State.powerOn cfg : State TErr CErr).CountInv :=
  ⟨rfl, rfl, rfl⟩

/-! ### A presented operation that is admitted -/

theorem stepOn_call {s : State TErr CErr} {op : HostOp} {rest : List Input} (hp : s.phase = .idle)
    (hi : s.inputs = .call op :: rest) : stepOn s = perform op { s with inputs := rest } := by
  simp [stepOn, hi, hp]

theorem execConstruct_of_admitted {s : State TErr CErr} (x : TransportToken) (l : LineToken) (hl : s.live = false)
    (hp : s.phase = .idle) : execConstruct x l s = .next (construct x l s) := by
  simp [execConstruct, constructNotAdmitted_eq_none.mpr ⟨hl, hp⟩]

theorem execDestroy_of_handle {s : State TErr CErr} {hd : Handle} (h : s.handle = some hd) (hp : s.phase = .idle) :
    execDestroy s =
      .next (({ s with handle := none } : State TErr CErr).giveBack (.resources hd.transport hd.line)) := by
  have hr : s.Ready := ⟨by simp [State.live, h], hp⟩
  simp [execDestroy, notAdmitted_eq_none.mpr hr, h]

theorem instr_of_isCommand {op : HostOp} (v : Variant) (h : op.isCommand = true) : ∃ i, op.instr v = some i := by
  cases op with
  | construct x l => cases h
  | destroy => cases h
  | pd m => exact ⟨_, rfl⟩
  | wt x => exact ⟨_, rfl⟩

/-- A command the transport answers is one completed transfer of its frame. -/
theorem perform_answered {s : State TErr CErr} {op : HostOp} {i : Instr} {r : TxAnswer TErr} {rest : List (TxAnswer TErr)}
    (hi : op.instr s.cfg.variant = some i) (hready : s.Ready) (htx : s.txAnswers = r :: rest) :
    perform op s = .next (s.afterTransfer (frameOf s.cfg.pdCodes i) r) := by
  obtain ⟨hperform, hv⟩ := perform_instr hi
  rw [hperform, command_of_ready _ hv.symm hready, send_answered _ htx]

/-! ### The placing of a word -/

theorem readied_ready (s : State TErr CErr) : (readied s).Ready := by
  unfold readied
  split
  · next hp =>
    split
    · next hl => exact ⟨hl, hp⟩
    · exact ⟨rfl, rfl⟩
  · dsimp only
    split
    · next hl => exact ⟨hl, rfl⟩
    · exact ⟨rfl, rfl⟩

theorem place_ready (i : Instr) (s : State TErr CErr) : (place i s).Ready :=
  readied_ready s

/-- An instruction is what its operation is where its variant is wired. -/
theorem instr_opOf (i : Instr) : (opOf i).instr i.variant = some i := by
  cases i <;> rfl

theorem withFetchWord_of_decoded {nbits w : Nat} {i : Instr} (s : State) (h : decodeTableWord nbits w = some i) :
    s.withFetchWord nbits w = place i s := by
  simp [State.withFetchWord, placeWord, h]

/-- The step after placing runs the placed instruction. -/
theorem step_place (i : Instr) (s : State) : step (place i s) = exec i { place i s with inputs := s.inputs } := by
  rw [step_eq_stepOn, stepOn_call (place_ready i s).2 rfl]
  exact (perform_command (s := { place i s with inputs := s.inputs }) (instr_opOf i)).1

/-! ### A program that runs, one operation at a time -/

section Runs

variable {s : State TErr CErr} {ops : List HostOp}

/-- The first operation of a program that runs is performed with the rest still to come. -/
theorem runs_stepOn {op : HostOp} (h : s.Runs (op :: ops)) :
    stepOn s = perform op { s with inputs := ops.map .call } :=
  stepOn_call h.1 h.2.1

theorem runs_construct {x : TransportToken} {l : LineToken} (hlive : s.live = false)
    (h : s.Runs (.construct x l :: ops)) :
    ∃ t, stepOn s = .next t ∧ t.Runs ops ∧ t.handle = some { transport := x, line := l } := by
  have ⟨hp, _, htx⟩ := h
  refine ⟨_, (runs_stepOn h).trans (execConstruct_of_admitted x l hlive hp), ⟨rfl, rfl, ?_⟩, rfl⟩
  simpa [HostOp.isCommand] using htx

/-- A command is answered and leaves the handle as it was. -/
theorem runs_command {op : HostOp} (hop : op.isCommand = true) (hlive : s.live = true) (h : s.Runs (op :: ops)) :
    ∃ t, stepOn s = .next t ∧ t.Runs ops ∧ t.handle = s.handle := by
  have ⟨hp, _, htx⟩ := h
  obtain ⟨i, hi⟩ := instr_of_isCommand s.cfg.variant hop
  have hcount : (ops.filter HostOp.isCommand).length + 1 ≤ s.txAnswers.length := by simpa [hop] using htx
  obtain ⟨r, rest, hr⟩ := List.exists_cons_of_length_pos (Nat.lt_of_lt_of_le (Nat.succ_pos _) hcount)
  have hperform := perform_answered (s := { s with inputs := ops.map .call }) hi ⟨hlive, hp⟩ hr
  refine ⟨_, (runs_stepOn h).trans hperform, ⟨rfl, rfl, ?_⟩, rfl⟩
  simpa [hr] using hcount

theorem runs_destroy {hd : Handle} (hh : s.handle = some hd) (h : s.Runs (.destroy :: ops)) :
    ∃ t, stepOn s = .next t ∧ t.Runs ops ∧ t.handle = none ∧
      t.returned = s.returned ++ [.resources hd.transport hd.line] := by
  have ⟨hp, _, htx⟩ := h
  refine ⟨_, (runs_stepOn h).trans (execDestroy_of_handle hh hp), ⟨hp, rfl, ?_⟩, rfl, rfl⟩
  simpa [HostOp.isCommand] using htx

end Runs

/-- The commands of a live handle run one step each and leave the handle as it was, whatever operations follow. -/
theorem run_commands {commands : List HostOp} (hcmd : ∀ op ∈ commands, op.isCommand = true) (ops : List HostOp)
    (n : Nat) : ∀ s : State, s.live = true → s.Runs (commands ++ ops) →
    ∃ t : State, core.run (commands.length + n) s = core.run n t ∧ t.Runs ops ∧ t.handle = s.handle := by
  induction commands with
  | nil => exact fun s _ h => ⟨s, by simp, h, rfl⟩
  | cons op commands ih =>
    obtain ⟨hop, hcmd⟩ := List.forall_mem_cons.mp hcmd
    intro s hlive h
    obtain ⟨s₁, hstep, hruns, hh₁⟩ := runs_command hop hlive h
    have hlive₁ : s₁.live = true := by rwa [State.live, hh₁]
    obtain ⟨t, hrun, ht, hh⟩ := ih hcmd s₁ hlive₁ hruns
    refine ⟨t, ?_, ht, hh.trans hh₁⟩
    rw [List.length_cons, Nat.add_right_comm, core_run_next hstep, hrun]

end Sys2Proof.Machine

open Sys2Proof Sys2Proof.Machine

/-- Settles O36, from the list of all next states a step can have. -/
theorem stepKeepsTheBlockInvariant : Obligations.StepKeepsTheBlockInvariant := by
  unfold Obligations.StepKeepsTheBlockInvariant
  exact fun s t hs h => stepOn_keeps_blockInv hs h

/-- Settles O39: a step that drives the line sets the level with the answer, and no other step of a live block moves it. -/
theorem stepKeepsThePhysicalLevel : Obligations.StepKeepsThePhysicalLevel := by
  unfold Obligations.StepKeepsThePhysicalLevel
  exact fun s t hs h => stepOn_keeps_physInv hs h

/-- Settles O42: the handle `CONSTRUCT` made is kept by the commands, by induction on them, and given back. -/
theorem sessionGivesBackWhatItTook : Obligations.SessionGivesBackWhatItTook := by
  unfold Obligations.SessionGivesBackWhatItTook
  intro s x l commands hlive hcmd hruns
  obtain ⟨s₁, hstep₁, hruns₁, hh₁⟩ := runs_construct hlive hruns
  obtain ⟨s₂, hrun, hruns₂, hh₂⟩ := run_commands hcmd [.destroy] 1 s₁ (by simp [State.live, hh₁]) hruns₁
  obtain ⟨t, hstep₂, -, hh, hret⟩ := runs_destroy (hh₂.trans hh₁) hruns₂
  refine ⟨t, ?_, by simp [State.live, hh], by simp [hret]⟩
  rw [core_run_next hstep₁, hrun, core_run_next hstep₂]
  rfl

/-- Settles O29: placing makes the block live and idle, and the placed operation is the instruction of its variant. -/
theorem placedWordRunsNext : Obligations.PlacedWordRunsNext := by
  unfold Obligations.PlacedWordRunsNext
  intro nbits w i s h
  rw [withFetchWord_of_decoded s h]
  refine ⟨place_ready i s, rfl, rfl, step_place i s, ?_⟩
  rw [step_place, exec_eq_command]
  exact ⟨_, command_of_ready _ rfl (place_ready i s)⟩

/-- Settles O34: the answer decides the physical level, and a scripted error may leave either. -/
theorem failedDriveLeavesAnyLevel : Obligations.FailedDriveLeavesAnyLevel := by
  unfold Obligations.FailedDriveLeavesAnyLevel
  intro TErr CErr
  refine ⟨fun level s => ⟨rfl, fun h => ?_, fun c leaves h => ?_⟩,
    fun level left c s => ⟨[.err c left], rfl, rfl⟩⟩
  · rw [csSet_csPhys, h, lineLevel]
  · rw [csSet_csPhys, h, lineLevel]

/-- Settles O35: nothing is held and nothing has been driven. -/
theorem powerOnMeetsTheInvariants : Obligations.PowerOnMeetsTheInvariants := by
  unfold Obligations.PowerOnMeetsTheInvariants
  refine ⟨fun TErr CErr cfg => ⟨rfl, rfl, rfl, powerOn_blockInv cfg, powerOn_traceInv cfg, powerOn_countInv cfg,
    physInv_of_dead rfl⟩, ⟨{ variant := .narrow, pdCodes := PdCodes.decided }, by decide, rfl⟩⟩

end

section
/-! PROOFS. What the block does at its interfaces: the shape of the trace, the counts of results and events, what a host
program leaves, and what a write may have put on the wire. -/

namespace Sys2Proof.Machine

variable {TErr CErr : Type}

/-! ### The shape of the trace -/

/-- Further events continue from where the trace left the line. -/
theorem busAfter_append {v : Variant} {trace events : List (Event TErr CErr)} {b : Bus} (h : busAfter v trace = some b) :
    busAfter v (trace ++ events) = events.foldlM (Bus.after v) b := by
  rw [busAfter] at h
  rw [busAfter, List.foldlM_append, h]
  rfl

/-- In `IDLE` the line is high, or there is no event yet and no handle. -/
theorem traceInv_iff_of_idle {s : State TErr CErr} (hp : s.phase = .idle) :
    s.TraceInv ↔ busAfter s.cfg.variant s.trace = some .high ∨
      busAfter s.cfg.variant s.trace = some .undriven ∧ s.live = false := by
  unfold State.TraceInv
  split <;> simp [*]

/-- In `ASSERTING` and `TRANSFERRING` a write is due or outstanding. -/
theorem traceInv_iff_of_low {s : State TErr CErr} (hp : s.phase = .asserting ∨ s.phase = .transferring) :
    s.TraceInv ↔ busAfter s.cfg.variant s.trace = some .low := by
  unfold State.TraceInv
  split <;> rcases hp with hp | hp <;> simp [*]

/-- In `DEASSERTING` the line has been driven high again. -/
theorem traceInv_iff_of_deasserting {s : State TErr CErr} (hp : s.phase = .deasserting) :
    s.TraceInv ↔ busAfter s.cfg.variant s.trace = some .high := by
  unfold State.TraceInv
  split <;> simp [*]

/-- Before a command the line is high: the handle's `CONSTRUCT` drove it (R90). -/
theorem busAfter_of_ready {s : State TErr CErr} (hs : s.TraceInv) (hr : s.Ready) :
    busAfter s.cfg.variant s.trace = some .high := by
  obtain ⟨hlive, hp⟩ := hr
  simpa [hlive] using (traceInv_iff_of_idle hp).mp hs

theorem traceInv_transferStep {s : State TErr CErr} (hs : s.TraceInv) (hp : s.phase = .asserting) :
    (transferStep s).TraceInv :=
  (traceInv_iff_of_low (.inr rfl)).mpr ((traceInv_iff_of_low (.inl hp)).mp hs)

theorem traceInv_deassertStep {s : State TErr CErr} (r : TxAnswer TErr) (hb : s.BlockInv) (hs : s.TraceInv)
    (hp : s.phase = .transferring) : (deassertStep r s).TraceInv := by
  obtain ⟨-, ⟨f, hf, hlegal⟩, -, -⟩ := (blockInv_iff_of_busy (by simp [hp])).mp hb
  have hlow := (traceInv_iff_of_low (.inr hp)).mp hs
  rw [deassertStep_closed]
  refine (traceInv_iff_of_deasserting rfl).mpr ?_
  simp [busAfter_append hlow, hf, hlegal, Bus.after]

theorem traceInv_finishStep {s : State TErr CErr} (hs : s.TraceInv) (hp : s.phase = .deasserting) :
    (finishStep s).TraceInv := by
  have hhigh := (traceInv_iff_of_deasserting hp).mp hs
  rw [finishStep_closed]
  exact (traceInv_iff_of_idle rfl).mpr (.inl hhigh)

theorem traceInv_construct {s : State TErr CErr} (x : TransportToken) (l : LineToken) (hs : s.TraceInv)
    (hp : s.phase = .idle) : (construct x l s).TraceInv := by
  refine (traceInv_iff_of_idle rfl).mpr (.inl ?_)
  rcases (traceInv_iff_of_idle hp).mp hs with hbus | ⟨hbus, -⟩
  · simp [busAfter_append hbus, Bus.after]
  · simp [busAfter_append hbus, Bus.after]

theorem traceInv_afterTransfer {s : State TErr CErr} {bytes : List Byte} (r : TxAnswer TErr) (hs : s.TraceInv)
    (hr : s.Ready) (hlegal : legalFrame s.cfg.variant bytes = true) : (s.afterTransfer bytes r).TraceInv := by
  refine (traceInv_iff_of_idle rfl).mpr (.inl ?_)
  simp [busAfter_append (busAfter_of_ready hs hr), hlegal, Bus.after]

theorem traceInv_awaitingTransport {s : State TErr CErr} (bytes : List Byte) (hs : s.TraceInv) (hr : s.Ready) :
    (s.awaitingTransport bytes).TraceInv := by
  refine (traceInv_iff_of_low (.inr rfl)).mpr ?_
  simp [busAfter_append (busAfter_of_ready hs hr), Bus.after]

/-- No event from a ready block, as by `DESTROY` (R91): its line is high and stays so in the trace. -/
theorem traceInv_of_no_event {s t : State TErr CErr} (hs : s.TraceInv) (hr : s.Ready) (hcfg : t.cfg = s.cfg)
    (htrace : t.trace = s.trace) (hp : t.phase = .idle) : t.TraceInv := by
  rw [traceInv_iff_of_idle hp, hcfg, htrace]
  exact .inl (busAfter_of_ready hs hr)

/-- Every step keeps the shape, for any types of error kinds. -/
theorem stepOn_keeps_traceInv {s t : State TErr CErr} (hb : s.BlockInv) (hs : s.TraceInv) (h : stepOn s = .next t) :
    t.TraceInv := by
  rcases stepOn_next_closed h with rfl | ⟨hp, rfl⟩ | ⟨r, -, hp, -, rfl⟩ | ⟨hp, rfl⟩ | ⟨x, l, rest, -, hp, rfl⟩ |
    ⟨hd, rest, hh, hp, rfl⟩ | ⟨i, rest, r, hi, hr, rfl⟩ | ⟨i, rest, -, hr, -, rfl⟩ | ⟨level, rest, -, rfl⟩ |
    ⟨rest, -, rfl⟩
  · -- the block waits
    exact hs
  · -- ASSERTING
    exact traceInv_transferStep hs hp
  · -- TRANSFERRING, answered
    exact traceInv_deassertStep r hb hs hp
  · -- DEASSERTING
    exact traceInv_finishStep hs hp
  · -- CONSTRUCT
    exact traceInv_construct (s := { s with inputs := rest }) x l hs hp
  · -- DESTROY
    exact traceInv_of_no_event hs ⟨by simp [State.live, hh], hp⟩ rfl rfl hp
  · -- a command, answered
    exact traceInv_afterTransfer (s := { s with inputs := rest }) r hs hr (hi ▸ legalFrame_frameOf s.cfg.pdCodes i)
  · -- a command, not answered
    exact traceInv_awaitingTransport (s := { s with inputs := rest }) _ hs hr
  · -- an outsider drives
    exact hs
  · -- an outsider writes
    exact hs

/-! ### The counts of results and events -/

/-- How many writes are due or outstanding in a phase (R122, R123). -/
def Phase.writesDue (p : Phase) : Nat :=
  if p = .asserting ∨ p = .transferring then 1 else 0

/-- Something appended to the trace and to the answers given keeps the books if the appended parts balance: their results
are the held one and the new writes' answers, their assertions the writes that became due, and their deassertions the
constructions and the writes answered. -/
theorem State.CountInv.of_appended {s t : State TErr CErr} {events : List (Event TErr CErr)} {returns : List (Return TErr)}
    (hs : s.CountInv) (htrace : t.trace = s.trace ++ events) (hreturned : t.returned = s.returned ++ returns)
    (hresults : returns.filterMap Return.result? ++ t.res.toList = s.res.toList ++ events.filterMap Event.txAnswer?)
    (hlows : s.phase.writesDue + (events.filter (Event.drives .low)).length =
      (events.filterMap Event.txAnswer?).length + t.phase.writesDue)
    (hhighs : (events.filter (Event.drives .high)).length =
      (returns.filter Return.isConstructed).length + (events.filterMap Event.txAnswer?).length) : t.CountInv := by
  obtain ⟨results, lows, highs⟩ := hs
  unfold Phase.writesDue at hlows
  constructor
  · rw [htrace, hreturned, List.filterMap_append, List.append_assoc, hresults, ← List.append_assoc, results,
      List.filterMap_append]
  · simp only [htrace, List.filter_append, List.filterMap_append, List.length_append]
    omega
  · simp only [htrace, hreturned, List.filter_append, List.filterMap_append, List.length_append]
    omega

/-- A step that issues no event and answers nothing, `RES` and the writes due as they were. -/
theorem State.CountInv.of_unchanged {s t : State TErr CErr} (hs : s.CountInv) (htrace : t.trace = s.trace)
    (hreturned : t.returned = s.returned) (hres : t.res = s.res) (hdue : t.phase.writesDue = s.phase.writesDue) :
    t.CountInv :=
  hs.of_appended (events := []) (returns := []) (by simp [htrace]) (by simp [hreturned]) (by simp [hres])
    (by simp [hdue]) rfl

theorem countInv_deassertStep {s : State TErr CErr} (r : TxAnswer TErr) (hb : s.BlockInv) (hs : s.CountInv)
    (hp : s.phase = .transferring) : (deassertStep r s).CountInv := by
  obtain ⟨-, ⟨f, hf, -⟩, -, hres⟩ := (blockInv_iff_of_busy (by simp [hp])).mp hb
  have hres : s.res = none := by simpa [hp] using hres
  rw [deassertStep_closed, hf]
  exact hs.of_appended rfl (List.append_nil _).symm (by simp [hres, Event.txAnswer?]) (by rw [hp]; rfl) rfl

theorem countInv_finishStep {s : State TErr CErr} (hs : s.CountInv) (hp : s.phase = .deasserting) :
    (finishStep s).CountInv := by
  rw [finishStep_closed]
  refine hs.of_appended (List.append_nil _).symm rfl ?_ ?_ ?_
  · cases s.res <;> rfl
  · rw [hp]; rfl
  · cases s.res <;> rfl

theorem countInv_construct {s : State TErr CErr} (x : TransportToken) (l : LineToken) (hs : s.CountInv)
    (hp : s.phase = .idle) : (construct x l s).CountInv :=
  hs.of_appended (construct_trace x l s) (construct_returned x l s) (List.append_nil _).symm
    (by rw [hp]; rfl) rfl

/-- `DESTROY` answers two resources, which are no result (R91). -/
theorem countInv_giveBack_resources {s : State TErr CErr} (x : TransportToken) (l : LineToken) (hs : s.CountInv) :
    (s.giveBack (.resources x l)).CountInv :=
  hs.of_appended (List.append_nil _).symm (giveBack_returned _ s) (List.append_nil _).symm (by simp) rfl

theorem countInv_afterTransfer {s : State TErr CErr} (bytes : List Byte) (r : TxAnswer TErr) (hb : s.BlockInv)
    (hs : s.CountInv) (hp : s.phase = .idle) : (s.afterTransfer bytes r).CountInv := by
  obtain ⟨-, hres, -⟩ := (blockInv_iff_of_idle hp).mp hb
  exact hs.of_appended (afterTransfer_trace bytes r s) (afterTransfer_returned bytes r s) (by rw [hres]; rfl)
    (by rw [hp]; rfl) rfl

theorem countInv_awaitingTransport {s : State TErr CErr} (bytes : List Byte) (hs : s.CountInv) (hp : s.phase = .idle) :
    (s.awaitingTransport bytes).CountInv :=
  hs.of_appended (awaitingTransport_trace bytes s) (List.append_nil _).symm (List.append_nil _).symm
    (by rw [hp]; rfl) rfl

/-- Every step keeps the books, for any types of error kinds. -/
theorem stepOn_keeps_countInv {s t : State TErr CErr} (hb : s.BlockInv) (hs : s.CountInv) (h : stepOn s = .next t) :
    t.CountInv := by
  have with_inputs (rest : List Input) : ({ s with inputs := rest } : State TErr CErr).CountInv :=
    hs.of_unchanged rfl rfl rfl rfl
  rcases stepOn_next_closed h with rfl | ⟨hp, rfl⟩ | ⟨r, -, hp, -, rfl⟩ | ⟨hp, rfl⟩ | ⟨x, l, rest, -, hp, rfl⟩ |
    ⟨hd, rest, -, -, rfl⟩ | ⟨i, rest, r, -, hr, rfl⟩ | ⟨i, rest, -, hr, -, rfl⟩ | ⟨level, rest, -, rfl⟩ |
    ⟨rest, -, rfl⟩
  · -- the block waits
    exact hs
  · -- ASSERTING
    exact hs.of_unchanged rfl rfl rfl (by rw [hp]; rfl)
  · -- TRANSFERRING, answered
    exact countInv_deassertStep r hb hs hp
  · -- DEASSERTING
    exact countInv_finishStep hs hp
  · -- CONSTRUCT
    exact countInv_construct x l (with_inputs rest) hp
  · -- DESTROY
    exact countInv_giveBack_resources _ _ (hs.of_unchanged rfl rfl rfl rfl)
  · -- a command, answered
    exact countInv_afterTransfer _ r (blockInv_with_inputs rest hb) (with_inputs rest) hr.2
  · -- a command, not answered
    exact countInv_awaitingTransport _ (with_inputs rest) hr.2
  · -- an outsider drives
    exact hs.of_unchanged rfl rfl rfl rfl
  · -- an outsider writes
    exact with_inputs rest

/-! ### The bytes a command sends -/

/-- Byte 0 of a power-down frame, formula against fields (R62, R63, R67). -/
theorem pdByte0_eq_append (c : Code) : pdByte0 c = selPd ++ c ++ 0b00#2 := by
  revert c; decide

/-- Byte 0 of a write-through frame: the selector beside the low six bits (R64, R65). -/
theorem wtByte0_eq_append (b : Byte) : 0x40#8 ||| (b &&& 0x3F#8) = selWt ++ b.extractLsb' 0 6 := by
  revert b; decide

/-- Byte 2 of a wide write-through frame: the low two bits above the padding (R65, R69). -/
theorem wtByte2_eq_append (b : BitVec 2) : b.setWidth 8 <<< 6 = b ++ 0b000000#6 := by
  revert b; decide

/-- A logical shift and a truncation take a byte out of a value (R11). -/
theorem trunc8_ushiftRight {n : Nat} (v : BitVec n) (k : Nat) : trunc8 (v >>> k) = v.extractLsb' k 8 :=
  BitVec.setWidth_ushiftRight_eq_extractLsb

/-- The low six bits of such a byte, which stand beside a selector. -/
theorem extractLsb'_trunc8_ushiftRight {n : Nat} (v : BitVec n) (k : Nat) :
    (trunc8 (v >>> k)).extractLsb' 0 6 = v.extractLsb' k 6 := by
  rw [trunc8, BitVec.extractLsb'_setWidth_of_le (by decide)]
  ext j hj
  simp

/-- The narrow formulas make the bytes of the format table (R68 against R64). -/
theorem wtFrameN_eq_encode (p : PdCodes) (v : Value) : wtFrameN v = encode p (.wtN v) := by
  have hbyte0 : (trunc8 (v >>> 8)).extractLsb' 0 6 = v.extractLsb 13 8 := extractLsb'_trunc8_ushiftRight v 8
  have hbyte1 : trunc8 v = v.extractLsb 7 0 := trunc8_ushiftRight v 0
  rw [wtFrameN, wtByte0_eq_append, hbyte0, hbyte1, encode]

/-- The wide formulas make the bytes of the format table (R69 against R65). -/
theorem wtFrameW_eq_encode (p : PdCodes) (v : Value) : wtFrameW v = encode p (.wtW v) := by
  have hmask : trunc8 (v >>> 10) &&& 0x3F#8 = trunc8 (v >>> 10) := by
    ext k hk
    interval_cases k <;> simp [trunc8]
  have hbyte0 : (trunc8 (v >>> 10)).extractLsb' 0 6 = v.extractLsb 15 10 := extractLsb'_trunc8_ushiftRight v 10
  have hbyte2 : trunc8 (v &&& 0x0003#16) = (v.extractLsb 1 0).setWidth 8 := by
    ext k hk
    interval_cases k <;> simp [trunc8]
  rw [wtFrameW, ← hmask, wtByte0_eq_append, hbyte0, trunc8_ushiftRight, hbyte2, wtByte2_eq_append, encode]
  rfl

/-- A command sends the frame the encoder makes of it (R67 to R69 against R62 to R65). -/
theorem frameOf_eq_encode (p : PdCodes) (i : Instr) : frameOf p i = encode p i := by
  cases i with
  | pdN m => rw [frameOf, pdFrameN, pdByte0_eq_append, encode]
  | wtN v => exact wtFrameN_eq_encode p v
  | pdW m => rw [frameOf, pdFrameW, pdByte0_eq_append, encode]
  | wtW v => exact wtFrameW_eq_encode p v

/-! ### A host program's requests and results -/

theorem isCommand_of_instr {op : HostOp} {v : Variant} {i : Instr} (h : op.instr v = some i) : op.isCommand = true := by
  cases op with
  | construct x l => cases h
  | destroy => cases h
  | pd m => rfl
  | wt x => rfl

/-- A command's requests are those of one transfer of its frame (R50). -/
theorem requests_of_instr {op : HostOp} {cfg : Config} {i : Instr} (h : op.instr cfg.variant = some i) :
    op.requests cfg = [.csSet .low, .txWrite (encode cfg.pdCodes i), .csSet .high] := by
  cases op with
  | construct x l => cases h
  | destroy => cases h
  | pd m => cases hv : cfg.variant <;> simp_all [HostOp.instr, HostOp.requests]
  | wt x => cases hv : cfg.variant <;> simp_all [HostOp.instr, HostOp.requests]

/-- `t` is `s` after the operations `ops`, each completed: their requests in order, their commands' answers as results and
taken from the transport's, and the same parameters (R48, R50). -/
structure State.Completed (s t : State TErr CErr) (ops : List HostOp) : Prop where
  cfg       : t.cfg = s.cfg
  requests  : t.trace.map Event.request = s.trace.map Event.request ++ ops.flatMap (HostOp.requests s.cfg)
  results   : t.returned.filterMap Return.result? =
    s.returned.filterMap Return.result? ++ s.txAnswers.take (ops.filter HostOp.isCommand).length
  txAnswers : t.txAnswers = s.txAnswers.drop (ops.filter HostOp.isCommand).length

theorem State.Completed.refl (s : State TErr CErr) : s.Completed s [] :=
  ⟨rfl, (List.append_nil _).symm, (List.append_nil _).symm, rfl⟩

theorem State.Completed.trans {s t u : State TErr CErr} {ops more : List HostOp} (h₁ : s.Completed t ops)
    (h₂ : t.Completed u more) : s.Completed u (ops ++ more) := by
  constructor
  · rw [h₂.cfg, h₁.cfg]
  · rw [h₂.requests, h₁.requests, h₁.cfg, List.flatMap_append, List.append_assoc]
  · rw [h₂.results, h₁.results, h₁.txAnswers, List.filter_append, List.length_append, List.take_add, List.append_assoc]
  · rw [h₂.txAnswers, h₁.txAnswers, List.filter_append, List.length_append, List.drop_drop]

theorem completed_construct (x : TransportToken) (l : LineToken) (s : State TErr CErr) :
    s.Completed (construct x l s) [.construct x l] := by
  constructor <;> simp [HostOp.isCommand, HostOp.requests, Event.request, Return.result?]

theorem completed_destroy (hd : Handle) (s : State TErr CErr) :
    s.Completed (({ s with handle := none } : State TErr CErr).giveBack (.resources hd.transport hd.line))
      [.destroy] := by
  constructor <;> simp [HostOp.isCommand, HostOp.requests, Return.result?]

theorem completed_command {s : State TErr CErr} {op : HostOp} {i : Instr} {r : TxAnswer TErr}
    {rest : List (TxAnswer TErr)} (hi : op.instr s.cfg.variant = some i) (htx : s.txAnswers = r :: rest) :
    s.Completed (s.afterTransfer (frameOf s.cfg.pdCodes i) r) [op] := by
  constructor <;>
    simp [isCommand_of_instr hi, requests_of_instr hi, frameOf_eq_encode, htx, Event.request, Return.result?]

/-- An operation that goes on, with an answer to come if it is a command, is completed and leaves the block idle. -/
theorem perform_completes {s t : State TErr CErr} {op : HostOp} (h : perform op s = .next t)
    (htx : op.isCommand = true → s.txAnswers ≠ []) : s.Completed t [op] ∧ t.phase = .idle ∧ t.inputs = s.inputs := by
  rcases perform_next h with ⟨x, l, rfl, -, -, rfl⟩ | ⟨hd, rfl, -, hp, rfl⟩ | ⟨i, hi, -, -, rfl⟩
  · exact ⟨completed_construct x l s, rfl, rfl⟩
  · exact ⟨completed_destroy hd s, hp, rfl⟩
  · obtain ⟨r, rest, hr⟩ := List.exists_cons_of_ne_nil (htx (isCommand_of_instr hi))
    rw [send_answered _ hr]
    exact ⟨completed_command hi hr, rfl, rfl⟩

/-- A step of a program that runs completes its first operation, and the rest of the program runs. -/
theorem runs_step {s t : State TErr CErr} {op : HostOp} {ops : List HostOp} (hruns : s.Runs (op :: ops))
    (h : stepOn s = .next t) : s.Completed t [op] ∧ t.Runs ops := by
  have ⟨_, _, htx⟩ := hruns
  rw [runs_stepOn hruns] at h
  have hanswer (hop : op.isCommand = true) : s.txAnswers ≠ [] := by
    intro hnil
    simp [hop, hnil] at htx
  obtain ⟨hdone, hp, hinputs⟩ := perform_completes h hanswer
  refine ⟨⟨hdone.cfg, hdone.requests, hdone.results, hdone.txAnswers⟩, hp, hinputs, ?_⟩
  rw [hdone.txAnswers, List.length_drop]
  rw [← List.singleton_append, List.filter_append, List.length_append] at htx
  exact Nat.le_sub_of_add_le' htx

/-- A run that goes on took a first step that went on. -/
theorem core_run_succ_next {n : Nat} {s t : State} (h : core.run (n + 1) s = .next t) :
    ∃ u, step s = .next u ∧ core.run n u = .next t := by
  cases hstep : step s with
  | next u => exact ⟨u, rfl, (core_run_next hstep).symm.trans h⟩
  | fault x => cases x
  | refused r =>
    rw [core_run_refused hstep] at h
    cases h

/-- A program that runs to its end has completed every operation, in order. -/
theorem run_completes {t : State} (ops : List HostOp) :
    ∀ s : State, s.Runs ops → core.run ops.length s = .next t → s.Completed t ops ∧ t.Runs [] := by
  induction ops with
  | nil =>
    intro s hruns h
    cases h
    exact ⟨.refl _, hruns⟩
  | cons op ops ih =>
    intro s hruns h
    obtain ⟨u, hstep, hrun⟩ := core_run_succ_next h
    obtain ⟨hfirst, hruns⟩ := runs_step hruns hstep
    obtain ⟨hrest, hend⟩ := ih u hruns hrun
    exact ⟨hfirst.trans hrest, hend⟩

/-! ### What a write may have put on the wire -/

@[simp] theorem wireMayCarry_ok {bytes : List Byte} {bits : List Bool} :
    wireMayCarry bytes (.ok : TxAnswer TErr) bits ↔ bits = serialBits bytes := Iff.rfl

@[simp] theorem wireMayCarry_err {bytes : List Byte} {e : TErr} {bits : List Bool} :
    wireMayCarry bytes (.err e) bits ↔ bits <+: serialBits bytes := Iff.rfl

/-- A frame of the variant has `FRAME_BITS` bits on the wire (R8, R45). -/
theorem serialBits_length_of_frame {v : Variant} {bytes : List Byte} (h : bytes.length = v.frameBytes) :
    (serialBits bytes).length = v.frameBits := by
  rw [serialBits_length, h, Variant.frameBits]

end Sys2Proof.Machine

open Sys2Proof Sys2Proof.Machine

/-- Settles O37, from the list of all next states a step can have and where each finds the line. -/
theorem stepKeepsTheTraceShape : Obligations.StepKeepsTheTraceShape := by
  unfold Obligations.StepKeepsTheTraceShape
  exact fun s t hb hs h => stepOn_keeps_traceInv hb hs h

/-- Settles O38, from the list of all next states a step can have: what each step appends balances. -/
theorem stepKeepsTheCounts : Obligations.StepKeepsTheCounts := by
  unfold Obligations.StepKeepsTheCounts
  exact fun s t hb hs h => stepOn_keeps_countInv hb hs h

/-- Settles O41, by induction on the operations: each step completes the first of them. -/
theorem programTraceIsItsOperationsInOrder : Obligations.ProgramTraceIsItsOperationsInOrder := by
  unfold Obligations.ProgramTraceIsItsOperationsInOrder
  intro s t ops hruns hrun
  obtain ⟨hdone, hidle, hinputs, -⟩ := run_completes ops s hruns hrun
  exact ⟨hdone.requests, hdone.results, hidle, hinputs⟩

/-- Settles O10: the frame begins with its first `n` bits, and what it begins with is its first bits. -/
theorem failedWriteMayCarryAnyPrefix : Obligations.FailedWriteMayCarryAnyPrefix := by
  unfold Obligations.FailedWriteMayCarryAnyPrefix
  intro TErr v bytes hlen
  rw [← serialBits_length_of_frame hlen]
  refine ⟨fun bits => wireMayCarry_ok, fun e => ⟨fun n hn => ?_, fun bits hbits => ?_⟩⟩
  · exact ⟨(serialBits bytes).take n, List.length_take_of_le hn, wireMayCarry_err.mpr (List.take_prefix n _)⟩
  · have hprefix := wireMayCarry_err.mp hbits
    exact ⟨hprefix.length_le, List.prefix_iff_eq_take.mp hprefix⟩

/-- Settles O28: a presented operation is performed in `IDLE`, and a command is performed as `exec` of its instruction. -/
theorem stepRunsThePresentedOperation : Obligations.StepRunsThePresentedOperation := by
  unfold Obligations.StepRunsThePresentedOperation
  intro op rest s hp hinputs
  have hstep : step s = perform op { s with inputs := rest } := stepOn_call hp hinputs
  refine ⟨hstep, fun i hi => ?_⟩
  obtain ⟨hexec, hvariant⟩ := perform_command (s := { s with inputs := rest }) hi
  exact ⟨hvariant, hstep.trans hexec⟩

end

section
/-! PROOFS. The frame formats: fields of a byte, the decoder as the inverse of the encoder (R73 to R75, R113), and the laws
of the formulas the commands compute with (R67 to R72). -/

namespace Sys2Proof

open Laws.EncodedShape (sel_append pd_byte0)

/-! ### Three fields side by side -/

section Fields

variable {u v w : Nat}

theorem extractLsb'_append₃_left (x : BitVec u) (y : BitVec v) (z : BitVec w) :
    (x ++ y ++ z).extractLsb' (w + v) u = x := by
  rw [BitVec.extractLsb'_append_eq_of_le (by omega), Nat.add_sub_cancel_left, BitVec.extractLsb'_append_eq_left]

theorem extractLsb'_append₃_middle (x : BitVec u) (y : BitVec v) (z : BitVec w) :
    (x ++ y ++ z).extractLsb' w v = y := by
  rw [BitVec.extractLsb'_append_eq_of_le (by omega), Nat.sub_self, BitVec.extractLsb'_append_eq_right]

theorem extractLsb'_append₃_eq_self (x : BitVec (u + v + w)) :
    x.extractLsb' (w + v) u ++ x.extractLsb' w v ++ x.extractLsb' 0 w = x := by
  rw [BitVec.extractLsb'_append_extractLsb'_eq_extractLsb' rfl, BitVec.extractLsb'_append_extractLsb']

end Fields

/-! ### The fields of a frame's bytes (R61 to R66) -/

theorem selWt_ne_selPd : selWt ≠ selPd := by
  decide

theorem extractLsb_low_append (s : BitVec 2) (x : BitVec 6) : (s ++ x).extractLsb 5 0 = x :=
  BitVec.extractLsb'_append_eq_right

theorem extractLsb_high_append (s : BitVec 2) (x : BitVec 6) : (s ++ x).extractLsb 7 6 = s :=
  sel_append s x

theorem selOf_append_low (b : Byte) : selOf b ++ (b.extractLsb 5 0 : BitVec 6) = b :=
  BitVec.extractLsb'_append_extractLsb' (w := 2) (len := 6)

theorem modeOf_append (s : BitVec 2) (c : Code) (z : BitVec 2) : modeOf (s ++ c ++ z) = c :=
  extractLsb'_append₃_middle s c z

theorem padding_append (s : BitVec 2) (c : Code) (z : BitVec 2) : (s ++ c ++ z).extractLsb 1 0 = z :=
  BitVec.extractLsb'_append_eq_right

theorem selOf_append_modeOf_append_padding (b : Byte) : selOf b ++ modeOf b ++ (b.extractLsb 1 0 : BitVec 2) = b :=
  extractLsb'_append₃_eq_self (u := 2) (v := 4) (w := 2) b

/-! ### The value a write-through frame carries (R64, R65, R113) -/

/-- The two narrow fields hold bits 13:0 of the value, and reading them fills up with zeros. -/
theorem narrow_fields_eq_and (x : Value) :
    0b00#2 ++ (x.extractLsb 13 8 : BitVec 6) ++ (x.extractLsb 7 0 : BitVec 8) = x &&& 0x3FFF#16 := by
  have hjoin : (x.extractLsb 13 8 : BitVec 6) ++ (x.extractLsb 7 0 : BitVec 8) = x.setWidth 14 := by
    rw [BitVec.setWidth_eq_extractLsb' (by decide)]
    exact BitVec.extractLsb'_append_extractLsb'_eq_extractLsb' rfl
  rw [BitVec.append_assoc, hjoin, BitVec.cast_eq]
  exact (BitVec.and_setWidth_allOnes 2 14 x).symm

/-- The three wide fields hold the whole value. -/
theorem wide_fields_eq_self (x : Value) :
    (x.extractLsb 15 10 : BitVec 6) ++ (x.extractLsb 9 2 : BitVec 8) ++ (x.extractLsb 1 0 : BitVec 2) = x :=
  extractLsb'_append₃_eq_self (u := 6) (v := 8) (w := 2) x

/-- The value read from two bytes of a narrow frame stands in them, and in no more than 14 bits. -/
theorem narrow_value_fields (x : BitVec 6) (y : Byte) :
    (0b00#2 ++ x ++ y).extractLsb 13 8 = x ∧ (0b00#2 ++ x ++ y).extractLsb 7 0 = y :=
  ⟨extractLsb'_append₃_middle 0b00#2 x y, BitVec.extractLsb'_append_eq_right⟩

/-- The value read from three bytes of a wide frame stands in them. -/
theorem wide_value_fields (x : BitVec 6) (y : Byte) (z : BitVec 2) :
    (x ++ y ++ z).extractLsb 15 10 = x ∧ (x ++ y ++ z).extractLsb 9 2 = y ∧ (x ++ y ++ z).extractLsb 1 0 = z :=
  ⟨extractLsb'_append₃_left x y z, extractLsb'_append₃_middle x y z, BitVec.extractLsb'_append_eq_right⟩

/-- A mask of the low `k` bits is the remainder. -/
theorem toNat_and_eq_mod {n k : Nat} {x mask : BitVec n} (h : mask.toNat = 2 ^ k - 1) :
    (x &&& mask).toNat = x.toNat % 2 ^ k := by
  rw [BitVec.toNat_and, h, Nat.and_two_pow_sub_one_eq_mod]

theorem wfOn_iff {v : Variant} {i : Instr} : i.wfOn v = true ↔ i.variant = v ∧ i.wf = true := by
  simp [Instr.wfOn]

theorem wtN_wf_iff (x : Value) : (Instr.wtN x).wf = true ↔ x &&& 0x3FFF#16 = x := by
  have hmax : (0x3FFF#16).toNat = 2 ^ 14 - 1 := rfl
  rw [Instr.wf, BitVec.ule_iff_toNat_le, ← BitVec.toNat_inj, toNat_and_eq_mod hmax, hmax]
  omega

/-- What a narrow frame reads as is well-formed. -/
theorem wtN_wf_of_fields (x : BitVec 6) (y : Byte) : (Instr.wtN (0b00#2 ++ x ++ y)).wf = true := by
  obtain ⟨hx, hy⟩ := narrow_value_fields x y
  rw [wtN_wf_iff, ← narrow_fields_eq_and, hx, hy]

theorem canonical_of_wf {i : Instr} (h : i.wf = true) : i.canonical = i := by
  cases i with
  | pdN m => rfl
  | wtN x => rw [Instr.canonical, (wtN_wf_iff x).mp h]
  | pdW m => rfl
  | wtW x => rfl

/-! ### The code table (R66, R75 b) -/

theorem code_of_mode? {p : PdCodes} {c : Code} {m : Mode} (h : p.mode? c = some m) : p.code m = c := by
  simpa using List.find?_some h

theorem mem_modes (m : Mode) : m ∈ [Mode.normal, .hiz, .gnd100k, .gnd1k] := by
  cases m <;> decide

theorem code_injective {p : PdCodes} (hp : p.wf = true) : Function.Injective p.code := by
  obtain ⟨-, hnodup⟩ := Bool.and_eq_true_iff.mp hp
  have hnodup : ([Mode.normal, .hiz, .gnd100k, .gnd1k].map p.code).Nodup := of_decide_eq_true hnodup
  exact fun m m' h => List.inj_on_of_nodup_map hnodup (mem_modes m) (mem_modes m') h

theorem mode?_code {p : PdCodes} (hp : p.wf = true) (m : Mode) : p.mode? (p.code m) = some m := by
  cases h : p.mode? (p.code m) with
  | some m' => rw [code_injective hp (code_of_mode? h)]
  | none => simpa using List.find?_eq_none.mp h m (mem_modes m)

/-! ### The decoder, branch by branch -/

section Branches

variable {c : Config} {p : PdCodes} {byte0 byte1 byte2 : Byte}

theorem decode_narrow (h : c.variant = .narrow) : decode c [byte0, byte1] = decodeNarrow c.pdCodes byte0 byte1 := by
  simp [decode, h]

theorem decode_wide (h : c.variant = .wide) :
    decode c [byte0, byte1, byte2] = decodeWide c.pdCodes byte0 byte1 byte2 := by
  simp [decode, h]

theorem decodeNarrow_of_selPd (h : selOf byte0 = selPd) :
    decodeNarrow p byte0 byte1 = decodePd p byte0 [byte1] .pdN :=
  if_pos h

theorem decodeWide_of_selPd (h : selOf byte0 = selPd) :
    decodeWide p byte0 byte1 byte2 = decodePd p byte0 [byte1, byte2] .pdW :=
  if_pos h

theorem decodeNarrow_of_selWt (h : selOf byte0 = selWt) :
    decodeNarrow p byte0 byte1 = .command (.wtN (0b00#2 ++ (byte0.extractLsb 5 0 : BitVec 6) ++ byte1)) := by
  simp [decodeNarrow, h, selWt_ne_selPd]

theorem decodeWide_of_selWt (h : selOf byte0 = selWt) (hpad : byte2.extractLsb 5 0 = 0#6) :
    decodeWide p byte0 byte1 byte2 =
      .command (.wtW ((byte0.extractLsb 5 0 : BitVec 6) ++ byte1 ++ (byte2.extractLsb 7 6 : BitVec 2))) := by
  simp [decodeWide, h, hpad, selWt_ne_selPd]

end Branches

/-! ### The decoder takes back what the encoder made -/

theorem decodePd_joined {p : PdCodes} (hp : p.wf = true) (m : Mode) {trailing : List Byte} (mk : Mode → Instr)
    (h : ∀ b ∈ trailing, b = 0#8) : decodePd p (selPd ++ p.code m ++ 0b00#2) trailing mk = .command (mk m) := by
  rw [decodePd, if_pos ⟨padding_append selPd (p.code m) 0#2, h⟩, modeOf_append, mode?_code hp]

theorem decode_encode {c : Config} {i : Instr} (hc : c.wf = true) (hv : i.variant = c.variant) :
    decode c (encode c.pdCodes i) = .command i.canonical := by
  cases i with
  | pdN m =>
    rw [encode, decode_narrow hv.symm, decodeNarrow_of_selPd (pd_byte0 _ _)]
    exact decodePd_joined hc m .pdN (by simp)
  | wtN x =>
    rw [encode, decode_narrow hv.symm, decodeNarrow_of_selWt (sel_append _ _), extractLsb_low_append,
      narrow_fields_eq_and, Instr.canonical]
  | pdW m =>
    rw [encode, decode_wide hv.symm, decodeWide_of_selPd (pd_byte0 _ _)]
    exact decodePd_joined hc m .pdW (by simp)
  | wtW x =>
    rw [encode, decode_wide hv.symm, decodeWide_of_selWt (sel_append _ _) (extractLsb_low_append _ _),
      extractLsb_low_append, extractLsb_high_append, wide_fields_eq_self, Instr.canonical]

/-! ### The decoder takes only what the encoder made -/

/-- What the power-down half accepts: a mode's code beside the selector, and zeros. -/
theorem decodePd_command {p : PdCodes} {byte0 : Byte} {trailing : List Byte} {mk : Mode → Instr} {i : Instr}
    (hsel : selOf byte0 = selPd) (h : decodePd p byte0 trailing mk = .command i) :
    ∃ m, i = mk m ∧ byte0 = selPd ++ p.code m ++ 0b00#2 ∧ ∀ b ∈ trailing, b = 0#8 := by
  unfold decodePd at h
  split at h
  · next hpad =>
    split at h
    · next m hm =>
      injection h with h
      refine ⟨m, h.symm, ?_, hpad.2⟩
      rw [code_of_mode? hm, ← hsel, ← hpad.1, selOf_append_modeOf_append_padding]
    · cases h
  · cases h

theorem decodeNarrow_command {p : PdCodes} {byte0 byte1 : Byte} {i : Instr}
    (h : decodeNarrow p byte0 byte1 = .command i) : i.wfOn .narrow = true ∧ [byte0, byte1] = encode p i := by
  unfold decodeNarrow at h
  split at h
  · next hsel =>
    obtain ⟨m, rfl, hbyte0, hzero⟩ := decodePd_command hsel h
    exact ⟨rfl, by rw [encode, hbyte0, hzero byte1 (by simp)]⟩
  · split at h
    · next hsel =>
      cases h
      obtain ⟨hx, hy⟩ := narrow_value_fields (byte0.extractLsb 5 0) byte1
      refine ⟨wfOn_iff.mpr ⟨rfl, wtN_wf_of_fields _ _⟩, ?_⟩
      rw [encode, hx, hy, ← hsel, selOf_append_low]
    · cases h

theorem decodeWide_command {p : PdCodes} {byte0 byte1 byte2 : Byte} {i : Instr}
    (h : decodeWide p byte0 byte1 byte2 = .command i) :
    i.wfOn .wide = true ∧ [byte0, byte1, byte2] = encode p i := by
  unfold decodeWide at h
  split at h
  · next hsel =>
    obtain ⟨m, rfl, hbyte0, hzero⟩ := decodePd_command hsel h
    exact ⟨rfl, by rw [encode, hbyte0, hzero byte1 (by simp), hzero byte2 (by simp)]⟩
  · split at h
    · next hsel =>
      split at h
      · next hpad =>
        cases h
        obtain ⟨hx, hy, hz⟩ := wide_value_fields (byte0.extractLsb 5 0) byte1 (byte2.extractLsb 7 6)
        have hbyte2 : (byte2.extractLsb 7 6 : BitVec 2) ++ (byte2.extractLsb 5 0 : BitVec 6) = byte2 :=
          selOf_append_low byte2
        refine ⟨rfl, ?_⟩
        rw [encode, hx, hy, hz, ← hsel, selOf_append_low, ← hpad, hbyte2]
      · cases h
    · cases h

theorem decode_command {c : Config} {bytes : List Byte} {i : Instr} (h : decode c bytes = .command i) :
    i.wfOn c.variant = true ∧ bytes = encode c.pdCodes i := by
  unfold decode at h
  split at h
  · next hv =>
    rw [hv]
    exact decodeNarrow_command h
  · next hv =>
    rw [hv]
    exact decodeWide_command h
  · cases h

/-- Two instructions of one variant have one frame exactly when a frame names them alike. -/
theorem encode_eq_iff {p : PdCodes} {i j : Instr} (hp : p.wf = true) (hv : i.variant = j.variant) :
    encode p i = encode p j ↔ i.canonical = j.canonical := by
  have hi := decode_encode (c := { variant := j.variant, pdCodes := p }) (i := i) hp hv
  have hj := decode_encode (c := { variant := j.variant, pdCodes := p }) (i := j) hp rfl
  constructor
  · intro h
    rw [h] at hi
    exact Decoded.command.inj (hi.symm.trans hj)
  · intro h
    obtain ⟨-, hi⟩ := decode_command hi
    obtain ⟨-, hj⟩ := decode_command hj
    rw [hi, hj, h]

end Sys2Proof

namespace Sys2Proof.Machine

open Laws.EncodedShape (sel_append)

variable {TErr CErr : Type}

/-! ### When two write-through frames are one (R72, R113) -/

theorem wtFrameN_eq_iff {x y : Value} : wtFrameN x = wtFrameN y ↔ x &&& 0x3FFF#16 = y &&& 0x3FFF#16 := by
  rw [wtFrameN_eq_encode .decided, wtFrameN_eq_encode .decided]
  simpa [Instr.canonical] using encode_eq_iff (p := .decided) (i := .wtN x) (j := .wtN y) (by decide) rfl

theorem wtFrameW_eq_iff {x y : Value} : wtFrameW x = wtFrameW y ↔ x = y := by
  rw [wtFrameW_eq_encode .decided, wtFrameW_eq_encode .decided]
  simpa [Instr.canonical] using encode_eq_iff (p := .decided) (i := .wtW x) (j := .wtW y) (by decide) rfl

/-- A power-down frame and a write-through frame differ in `SEL`, whatever follows. -/
theorem pd_frame_ne_wt_frame (c : Code) (x : BitVec 6) (pdRest wtRest : List Byte) :
    pdByte0 c :: pdRest ≠ (selWt ++ x) :: wtRest := by
  intro h
  have hbyte0 := (List.cons.inj h).1
  have hsel : selPd = selWt := by rw [← selOf_pdByte0 c, hbyte0, sel_append]
  exact selWt_ne_selPd hsel.symm

/-! ### What the masks and shifts of R72 read from a frame -/

/-- The mask of the data bits of byte 0 and of the padding of byte 2. -/
theorem and_0x3F_eq_append (b : Byte) : b &&& 0x3F#8 = 0#2 ++ (b.extractLsb 5 0 : BitVec 6) := by
  revert b; decide

theorem setWidth_and_0x3F (b : Byte) : (b &&& 0x3F#8).setWidth 16 = (b.extractLsb 5 0 : BitVec 6).setWidth 16 := by
  revert b; decide

theorem setWidth_ushiftRight_6 (b : Byte) : (b >>> 6).setWidth 16 = (b.extractLsb 7 6 : BitVec 2).setWidth 16 := by
  apply BitVec.eq_of_toNat_eq
  rw [BitVec.toNat_setWidth, BitVec.toNat_setWidth, BitVec.toNat_ushiftRight, BitVec.extractLsb_toNat]
  omega

/-- The narrow reconstruction reads what the decoder reads. -/
theorem narrow_join (b0 b1 : Byte) :
    (b0 &&& 0x3F#8).setWidth 16 <<< 8 ||| b1.setWidth 16 = 0b00#2 ++ (b0.extractLsb 5 0 : BitVec 6) ++ b1 := by
  rw [← BitVec.setWidth_append_eq_shiftLeft_setWidth_or, and_0x3F_eq_append]
  exact BitVec.setWidth_eq _

/-- The wide reconstruction reads what the decoder reads. -/
theorem wide_join (b0 b1 b2 : Byte) :
    (b0 &&& 0x3F#8).setWidth 16 <<< 10 ||| b1.setWidth 16 <<< 2 ||| (b2 >>> 6).setWidth 16 =
      (b0.extractLsb 5 0 : BitVec 6) ++ b1 ++ (b2.extractLsb 7 6 : BitVec 2) := by
  rw [setWidth_and_0x3F, setWidth_ushiftRight_6]
  have hjoin := BitVec.setWidth_append_append_eq_shiftLeft_setWidth_or (b := (b0.extractLsb 5 0 : BitVec 6))
    (b' := b1) (b'' := (b2.extractLsb 7 6 : BitVec 2)) (w''' := 16)
  rw [BitVec.setWidth_eq] at hjoin
  exact hjoin.symm

/-! ### A frame as one number (R70)

Every formula of R67 to R70 is a constant that holds the selector, OR what stands below it, so it is their sum. -/

theorem toNat_or_eq_add {n k a : Nat} {s y : BitVec n} (hs : s.toNat = 2 ^ k * a) (hy : y.toNat < 2 ^ k) :
    (s ||| y).toNat = 2 ^ k * a + y.toNat := by
  rw [BitVec.toNat_or, hs, Nat.two_pow_add_eq_or_of_lt hy]

/-- A shift that pushes no bit out is a product. -/
theorem toNat_shiftLeft_eq_mul {n k : Nat} {x : BitVec n} (h : 2 ^ k * x.toNat < 2 ^ n) :
    (x <<< k).toNat = 2 ^ k * x.toNat := by
  rw [BitVec.toNat_shiftLeft, Nat.shiftLeft_eq, Nat.mul_comm, Nat.mod_eq_of_lt h]

theorem toNat_setWidth_shiftLeft {m n k : Nat} (x : BitVec m) (h : k + m ≤ n) :
    (x.setWidth n <<< k).toNat = 2 ^ k * x.toNat := by
  have hx : (x.setWidth n).toNat = x.toNat := BitVec.toNat_setWidth_of_le (by omega)
  have hlt : 2 ^ k * x.toNat < 2 ^ n :=
    calc 2 ^ k * x.toNat < 2 ^ k * 2 ^ m := Nat.mul_lt_mul_of_pos_left x.isLt (Nat.two_pow_pos k)
      _ = 2 ^ (k + m) := (Nat.pow_add 2 k m).symm
      _ ≤ 2 ^ n := Nat.pow_le_pow_right Nat.two_pos h
  rw [toNat_shiftLeft_eq_mul (by rwa [hx]), hx]

theorem toNat_trunc8 {n : Nat} (x : BitVec n) : (trunc8 x).toNat = x.toNat % 2 ^ 8 :=
  BitVec.toNat_setWidth ..

theorem toNat_trunc8_ushiftRight {n : Nat} (x : BitVec n) (k : Nat) :
    (trunc8 (x >>> k)).toNat = x.toNat / 2 ^ k % 2 ^ 8 := by
  rw [toNat_trunc8, BitVec.toNat_ushiftRight, Nat.shiftRight_eq_div_pow]

theorem frameNumber_pair (b0 b1 : Byte) : frameNumber [b0, b1] = 2 ^ 8 * b0.toNat + b1.toNat :=
  (frameNumber_snoc [b0] b1).trans (by simp [frameNumber])

theorem frameNumber_triple (b0 b1 b2 : Byte) :
    frameNumber [b0, b1, b2] = 2 ^ 8 * (2 ^ 8 * b0.toNat + b1.toNat) + b2.toNat := by
  rw [← frameNumber_pair]
  exact frameNumber_snoc [b0, b1] b2

theorem toNat_pdByte0 (c : Code) : (pdByte0 c).toNat = 2 ^ 6 * selPd.toNat + 2 ^ 2 * c.toNat := by
  revert c; decide

theorem frameNumber_pdFrameN (c : Code) : frameNumber (pdFrameN c) = 2 ^ 14 * selPd.toNat + 2 ^ 10 * c.toNat := by
  rw [pdFrameN, frameNumber_pair, toNat_pdByte0, BitVec.toNat_zero]
  omega

theorem frameNumber_pdFrameW (c : Code) : frameNumber (pdFrameW c) = 2 ^ 22 * selPd.toNat + 2 ^ 18 * c.toNat := by
  rw [pdFrameW, frameNumber_triple, toNat_pdByte0, BitVec.toNat_zero]
  omega

theorem frameNumber_wtFrameN (x : Value) : frameNumber (wtFrameN x) = 2 ^ 14 * selWt.toNat + x.toNat % 2 ^ 14 := by
  have hlow : (trunc8 (x >>> 8) &&& 0x3F#8).toNat = x.toNat / 2 ^ 8 % 2 ^ 6 := by
    rw [toNat_and_eq_mod (k := 6) rfl, toNat_trunc8_ushiftRight]
    omega
  rw [wtFrameN, frameNumber_pair, toNat_or_eq_add (k := 6) (a := selWt.toNat) rfl (by omega), hlow, toNat_trunc8]
  omega

theorem frameNumber_wtFrameW (x : Value) : frameNumber (wtFrameW x) = 2 ^ 22 * selWt.toNat + 2 ^ 6 * x.toNat := by
  have hx := x.isLt
  have hbyte0 := toNat_trunc8_ushiftRight x 10
  have hbyte2 : (trunc8 (x &&& 0x0003#16)).toNat = x.toNat % 2 ^ 2 := by
    rw [toNat_trunc8, toNat_and_eq_mod (k := 2) rfl]
    omega
  rw [wtFrameW, frameNumber_triple, toNat_or_eq_add (k := 6) (a := selWt.toNat) rfl (by omega),
    toNat_shiftLeft_eq_mul (by omega), hbyte0, toNat_trunc8_ushiftRight, hbyte2]
  omega

/-! ### One effect (R113, R165) -/

/-- What `SEND` leaves tells which frame it was given, whether the transport answers or not. -/
theorem send_inj {f g : List Byte} {s : State TErr CErr} : send f s = send g s ↔ f = g := by
  refine ⟨fun h => ?_, fun h => by rw [h]⟩
  rcases send_cases f s with ⟨r, rest, htx, hf⟩ | ⟨htx, hf⟩
  · rw [hf, send_answered g htx] at h
    simpa using congrArg State.trace h
  · rw [hf, send_silent g htx] at h
    simpa using congrArg State.frame h

theorem exec_eq_iff {i j : Instr} {s : State} (hi : i.variant = s.cfg.variant) (hj : j.variant = s.cfg.variant)
    (hr : s.Ready) : exec i s = exec j s ↔ frameOf s.cfg.pdCodes i = frameOf s.cfg.pdCodes j := by
  rw [exec_eq_command, exec_eq_command, command_of_ready _ hi.symm hr, command_of_ready _ hj.symm hr,
    Host.Outcome.next.injEq, send_inj]

end Sys2Proof.Machine

open Sys2Proof Sys2Proof.Machine

/-- Settles O1, by cases on the instruction: each format's fields are read where the encoder put them. -/
theorem decodeInvertsEncode : Obligations.DecodeInvertsEncode := by
  unfold Obligations.DecodeInvertsEncode
  exact fun c i hc hv => ⟨decode_encode hc hv, canonical_of_wf⟩

/-- Settles O2, from what each branch of the decoder that accepts has checked; an answer that is no command is
`invalid`. -/
theorem decodeAcceptsOnlyProducedFrames : Obligations.DecodeAcceptsOnlyProducedFrames := by
  unfold Obligations.DecodeAcceptsOnlyProducedFrames
  refine fun c bytes => ⟨fun i h => decode_command h, fun hnone => ?_⟩
  cases h : decode c bytes with
  | invalid why => exact ⟨why, rfl⟩
  | command i =>
    obtain ⟨hwf, hbytes⟩ := decode_command h
    obtain ⟨hv, -⟩ := wfOn_iff.mp hwf
    exact absurd hbytes (hnone i hv)

/-- Settles O3: the formulas against the fields, byte by byte. -/
theorem assemblyJoinsTheFormatFields : Obligations.AssemblyJoinsTheFormatFields := by
  unfold Obligations.AssemblyJoinsTheFormatFields
  exact frameOf_eq_encode

/-- Settles O4: both sides of each row are the selector's number plus what stands below it. -/
theorem framesAsWholeNumbers : Obligations.FramesAsWholeNumbers := by
  unfold Obligations.FramesAsWholeNumbers
  refine ⟨fun c => ?_, fun c => ?_, fun x => ?_, fun x => ?_⟩
  · have hlow := toNat_setWidth_shiftLeft c (n := 16) (k := 10) (by decide)
    rw [frameNumber_pdFrameN, toNat_or_eq_add (k := 14) (a := selPd.toNat) rfl (by omega), hlow]
  · have hlow := toNat_setWidth_shiftLeft c (n := 24) (k := 18) (by decide)
    rw [frameNumber_pdFrameW, toNat_or_eq_add (k := 22) (a := selPd.toNat) rfl (by omega), hlow]
  · have hlow : (x &&& 0x3FFF#16).toNat = x.toNat % 2 ^ 14 := toNat_and_eq_mod rfl
    rw [frameNumber_wtFrameN, toNat_or_eq_add (k := 14) (a := selWt.toNat) rfl (by omega), hlow]
  · have hlow := toNat_setWidth_shiftLeft x (n := 24) (k := 6) (by decide)
    rw [frameNumber_wtFrameW, toNat_or_eq_add (k := 22) (a := selWt.toNat) rfl (by omega), hlow]

/-- Settles O5: the frames are joined fields, which selector, mode and masks take apart again; which values share a
frame follows from decoding it. -/
theorem encoderLaws : Obligations.EncoderLaws := by
  unfold Obligations.EncoderLaws
  refine ⟨fun p m => ?_, fun x => ?_, fun x y => wtFrameN_eq_iff, fun x => ?_, fun x y => wtFrameW_eq_iff.mp,
    fun c x => ?_⟩
  · refine ⟨pdByte0 (p.code m), rfl, rfl, ?_⟩
    rw [pdByte0_eq_append]
    exact ⟨Laws.EncodedShape.pd_byte0 _ _, modeOf_append _ _ _, padding_append _ _ _⟩
  · refine ⟨_, _, wtFrameN_eq_encode .decided x, Laws.EncodedShape.sel_append _ _, ?_⟩
    rw [narrow_join, extractLsb_low_append, narrow_fields_eq_and]
  · refine ⟨_, _, _, wtFrameW_eq_encode .decided x, Laws.EncodedShape.sel_append _ _, ?_, ?_⟩
    · rw [wide_join, extractLsb_low_append, extractLsb_high_append, wide_fields_eq_self]
    · rw [and_0x3F_eq_append, extractLsb_low_append]
      rfl
  · rw [wtFrameN_eq_encode .decided, wtFrameW_eq_encode .decided]
    exact ⟨pd_frame_ne_wt_frame c _ _ _, pd_frame_ne_wt_frame c _ _ _⟩

/-- Settles O16: a ready command's outcome tells its frame, and a write-through frame its kept bits. -/
theorem writeThroughEffectDependsOnKeptBits : Obligations.WriteThroughEffectDependsOnKeptBits := by
  unfold Obligations.WriteThroughEffectDependsOnKeptBits
  intro x y s hr
  refine ⟨fun hv => ?_, fun hv => ?_⟩
  · exact (exec_eq_iff (i := .wtN x) (j := .wtN y) hv.symm hv.symm hr).trans wtFrameN_eq_iff
  · exact (exec_eq_iff (i := .wtW x) (j := .wtW y) hv.symm hv.symm hr).trans wtFrameW_eq_iff

/-- Settles O6, by evaluating the decoder on the seven words. -/
theorem writtenOutWordsDecode : Obligations.WrittenOutWordsDecode := by
  unfold Obligations.WrittenOutWordsDecode
  decide

/-- Settles O7, by evaluating the formulas on the four codes. -/
theorem powerDownFramesOfTheDecidedTable : Obligations.PowerDownFramesOfTheDecidedTable := by
  unfold Obligations.PowerDownFramesOfTheDecidedTable
  decide

end

section
/-! PROOFS. Host programs with the answers their lines state (R77): a loaded program runs line by line, each operation
taking its own line's answers, to its end or to the first command that is never answered (R129). -/

namespace Sys2Proof.Machine

variable {TErr CErr : Type}

/-! ### The answers of the lines -/

/-- The line's command, if it has one, is not said never to be answered. -/
def Line.Answered (l : Line TErr CErr) : Prop :=
  l.op.isCommand = true → l.tx ≠ .never

theorem txAnswer?_of_answered {l : Line TErr CErr} (hop : l.op.isCommand = true) (h : l.Answered) :
    ∃ r, l.txAnswer? = some r := by
  cases htx : l.tx with
  | unstated => exact ⟨.ok, by rw [Line.txAnswer?, htx]⟩
  | answers r => exact ⟨r, by rw [Line.txAnswer?, htx]⟩
  | never => exact absurd htx (h hop)

section LineAnswers

variable {l : Line TErr CErr} (rest : List (Line TErr CErr))

theorem lineAnswers_of_answer {r : TxAnswer TErr} (hop : l.op.isCommand = true) (hr : l.txAnswer? = some r) :
    lineAnswers (l :: rest) = r :: lineAnswers rest := by
  simp [lineAnswers, hop, hr]

theorem lineAnswers_of_never (hop : l.op.isCommand = true) (htx : l.tx = .never) : lineAnswers (l :: rest) = [] := by
  simp [lineAnswers, hop, Line.txAnswer?, htx]

theorem lineAnswers_of_not_command (hop : l.op.isCommand = false) : lineAnswers (l :: rest) = lineAnswers rest := by
  simp [lineAnswers, hop]

end LineAnswers

/-- Where every command is answered, the transport's answers are the commands' own, one for each. -/
theorem lineAnswers_of_answered {lines : List (Line TErr CErr)} (h : ∀ l ∈ lines, l.Answered) :
    lineAnswers lines = (lines.filter fun l => l.op.isCommand).filterMap Line.txAnswer? ∧
      (lineAnswers lines).length = ((lines.map Line.op).filter HostOp.isCommand).length := by
  induction lines with
  | nil => exact ⟨rfl, rfl⟩
  | cons l lines ih =>
    obtain ⟨hl, hlines⟩ := List.forall_mem_cons.mp h
    obtain ⟨heq, hlen⟩ := ih hlines
    cases hop : l.op.isCommand with
    | false =>
      rw [lineAnswers_of_not_command lines hop]
      exact ⟨by simp [hop, heq], by simp [hop, hlen]⟩
    | true =>
      obtain ⟨r, hr⟩ := txAnswer?_of_answered hop hl
      rw [lineAnswers_of_answer lines hop hr]
      exact ⟨by simp [hop, hr, heq], by simp [hop, hlen]⟩

/-! ### Which programs are admitted (R92, R149) -/

/-- Whether a handle is live after the operation, from whether one was before; `none` where R149 refuses it. -/
def HostOp.liveAfter? (live : Bool) : HostOp → Option Bool
  | .construct _ _ => if live then none else some true
  | .destroy => if live then some false else none
  | .pd _ => if live then some true else none
  | .wt _ => if live then some true else none

/-- The same for operations one after another. -/
def liveAfter? (live : Bool) (ops : List HostOp) : Option Bool :=
  ops.foldlM HostOp.liveAfter? live

theorem liveAfter?_command {op : HostOp} (h : op.isCommand = true) (live : Bool) :
    op.liveAfter? live = if live then some true else none := by
  cases op with
  | construct x t => cases h
  | destroy => cases h
  | pd m => rfl
  | wt x => rfl

theorem liveAfter?_append (live : Bool) (ops more : List HostOp) :
    liveAfter? live (ops ++ more) = (liveAfter? live ops).bind fun b => liveAfter? b more :=
  List.foldlM_append

theorem liveAfter?_cons (live : Bool) (op : HostOp) (ops : List HostOp) :
    liveAfter? live (op :: ops) = (op.liveAfter? live).bind fun b => liveAfter? b ops :=
  List.foldlM_cons

theorem liveAfter?_commands {ops : List HostOp} (h : ∀ op ∈ ops, op.isCommand = true) :
    liveAfter? true ops = some true := by
  induction ops with
  | nil => rfl
  | cons op ops ih =>
    obtain ⟨hop, hops⟩ := List.forall_mem_cons.mp h
    rw [liveAfter?_cons, liveAfter?_command hop]
    exact ih hops

theorem liveAfter?_opening {x : Session} (h : ∀ op ∈ x.commands, op.isCommand = true) :
    liveAfter? false x.opening = some true := by
  rw [Session.opening, liveAfter?_cons]
  exact liveAfter?_commands h

theorem liveAfter?_sessions {done : List Session} (h : ∀ x ∈ done, ∀ op ∈ x.commands, op.isCommand = true) :
    liveAfter? false (done.flatMap fun x => x.opening ++ [.destroy]) = some false := by
  induction done with
  | nil => rfl
  | cons x done ih =>
    obtain ⟨hx, hdone⟩ := List.forall_mem_cons.mp h
    rw [List.flatMap_cons, liveAfter?_append, liveAfter?_append, liveAfter?_opening hx]
    exact ih hdone

/-- A program of the grammar is admitted from no handle. -/
theorem Lifecycle.admitted {ops : List HostOp} (h : Lifecycle ops) : ∃ b, liveAfter? false ops = some b := by
  obtain ⟨done, last, hcmd, rfl⟩ := h
  rw [liveAfter?_append, liveAfter?_sessions fun x hx => hcmd x (List.mem_append_left _ hx)]
  cases last with
  | none => exact ⟨false, rfl⟩
  | some x =>
    have hx := liveAfter?_opening (hcmd x (by simp))
    exact ⟨true, by simpa using hx⟩

/-- What stands before an admitted command is admitted and leaves a handle live. -/
theorem liveAfter?_before_command {ops : List HostOp} {op : HostOp} {live b : Bool} (hop : op.isCommand = true)
    (h : liveAfter? live (ops ++ [op]) = some b) : liveAfter? live ops = some true := by
  rw [liveAfter?_append, Option.bind_eq_some_iff] at h
  obtain ⟨before, hbefore, hlast⟩ := h
  cases before with
  | true => exact hbefore
  | false => simp [liveAfter?_cons, liveAfter?_command hop] at hlast

/-! ### The events of one line -/

theorem drives_of_isCommand {op : HostOp} (h : op.isCommand = true) : op.drives = 2 := by
  cases op with
  | construct x t => cases h
  | destroy => cases h
  | pd m => rfl
  | wt x => rfl

theorem frame?_of_instr {op : HostOp} {cfg : Config} {i : Instr} (h : op.instr cfg.variant = some i) :
    op.frame? cfg = some (encode cfg.pdCodes i) := by
  rw [HostOp.frame?, h, Option.map_some]

theorem events_construct {l : Line TErr CErr} {cfg : Config} {x : TransportToken} {t : LineToken}
    (h : l.op = .construct x t) : l.events cfg = [.cs .high (lineEvent (l.csAnswer 0))] := by
  simp [Line.events, h]

theorem events_destroy {l : Line TErr CErr} {cfg : Config} (h : l.op = .destroy) : l.events cfg = [] := by
  simp [Line.events, h]

theorem events_command {l : Line TErr CErr} {cfg : Config} {i : Instr} {r : TxAnswer TErr}
    (hi : l.op.instr cfg.variant = some i) (hr : l.txAnswer? = some r) :
    l.events cfg = [.cs .low (lineEvent (l.csAnswer 0)), .wr (encode cfg.pdCodes i) r,
      .cs .high (lineEvent (l.csAnswer 1))] := by
  have hf := frame?_of_instr hi
  cases hop : l.op with
  | construct x t => simp [hop, HostOp.instr] at hi
  | destroy => simp [hop, HostOp.instr] at hi
  | pd m =>
    rw [hop] at hf
    simp [Line.events, hop, hf, hr]
  | wt x =>
    rw [hop] at hf
    simp [Line.events, hop, hf, hr]

/-! ### A state that presents lines runs the first of them -/

/-- The block is idle, and what is to come from outside is what the lines state. -/
structure State.Presents (s : State TErr CErr) (lines : List (Line TErr CErr)) : Prop where
  idle      : s.phase = .idle
  inputs    : s.inputs = lines.map fun l => .call l.op
  txAnswers : s.txAnswers = lineAnswers lines
  csAnswers : s.csAnswers = lines.flatMap Line.csAnswers

/-- The state with the operations of these lines, and nothing else, still to be presented. -/
def State.withLines (lines : List (Line TErr CErr)) (s : State TErr CErr) : State TErr CErr :=
  { s with inputs := lines.map fun l => .call l.op }

theorem withLines_wellUsed (lines : List (Line TErr CErr)) (s : State TErr CErr) : (s.withLines lines).WellUsed := by
  intro i hi
  obtain ⟨l, -, rfl⟩ := List.mem_map.mp hi
  exact ⟨l.op, rfl⟩

theorem loadProgram_presents (codes : PdCodes) (p : Program TErr CErr) : (loadProgram codes p).Presents p.lines :=
  ⟨rfl, rfl, rfl, rfl⟩

/-- `t` is `s` after the lines: the same parameters, and the lines' events in the trace. -/
structure State.LeftBy (s t : State TErr CErr) (lines : List (Line TErr CErr)) : Prop where
  cfg   : t.cfg = s.cfg
  trace : t.trace = s.trace ++ lines.flatMap (Line.events s.cfg)

section Lines

variable {s : State TErr CErr} {l : Line TErr CErr} {rest : List (Line TErr CErr)}

theorem State.Presents.stepOn_eq (h : s.Presents (l :: rest)) :
    stepOn s = perform l.op (s.withLines rest) :=
  stepOn_call h.idle h.inputs

theorem State.Presents.lineAnswer_eq (h : s.Presents (l :: rest)) {k : Nat} (hk : k < l.op.drives) :
    s.lineAnswer k = l.csAnswer k :=
  lineAnswer_of_line h.csAnswers hk

/-- The drives of the first line's operation leave the other lines' answers. -/
theorem State.Presents.csAnswers_drop (h : s.Presents (l :: rest)) :
    s.csAnswers.drop l.op.drives = rest.flatMap Line.csAnswers := by
  rw [h.csAnswers, List.flatMap_cons]
  exact List.drop_left' (csAnswers_length l)

/-! For each kind of operation: admitted and answered it completes, leaves its line's events, and the state presents the
lines that follow. -/

theorem presents_construct {x : TransportToken} {t : LineToken} (h : s.Presents (l :: rest))
    (hop : l.op = .construct x t) (hlive : s.live = false) :
    ∃ u, stepOn s = .next u ∧ u.Presents rest ∧ u.live = true ∧ s.LeftBy u [l] := by
  have hstep : stepOn s = .next (construct x t (s.withLines rest)) := by
    rw [h.stepOn_eq, hop]
    exact execConstruct_of_admitted x t hlive h.idle
  have hcs := h.csAnswers_drop
  rw [hop, HostOp.drives, List.drop_one] at hcs
  refine ⟨_, hstep, ⟨rfl, rfl, ?_, hcs⟩, rfl, rfl, ?_⟩
  · exact h.txAnswers.trans (lineAnswers_of_not_command rest (by rw [hop, HostOp.isCommand]))
  · rw [List.flatMap_singleton, events_construct hop, ← h.lineAnswer_eq (k := 0) (by simp [hop, HostOp.drives])]
    rfl

theorem presents_destroy (h : s.Presents (l :: rest)) (hop : l.op = .destroy) (hlive : s.live = true) :
    ∃ u, stepOn s = .next u ∧ u.Presents rest ∧ u.live = false ∧ s.LeftBy u [l] := by
  obtain ⟨hd, hh⟩ := Option.isSome_iff_exists.mp hlive
  have hstep : stepOn s = .next (({ s.withLines rest with handle := none } : State TErr CErr).giveBack
      (.resources hd.transport hd.line)) := by
    rw [h.stepOn_eq, hop]
    exact execDestroy_of_handle (s := s.withLines rest) hh h.idle
  have hcs := h.csAnswers_drop
  rw [hop, HostOp.drives, List.drop_zero] at hcs
  refine ⟨_, hstep, ⟨h.idle, rfl, ?_, hcs⟩, rfl, rfl, ?_⟩
  · exact h.txAnswers.trans (lineAnswers_of_not_command rest (by rw [hop, HostOp.isCommand]))
  · rw [List.flatMap_singleton, events_destroy hop, List.append_nil]
    rfl

theorem presents_command (h : s.Presents (l :: rest)) (hop : l.op.isCommand = true) (ha : l.Answered)
    (hlive : s.live = true) :
    ∃ u, stepOn s = .next u ∧ u.Presents rest ∧ u.live = true ∧ s.LeftBy u [l] := by
  obtain ⟨i, hi⟩ := instr_of_isCommand s.cfg.variant hop
  obtain ⟨r, hr⟩ := txAnswer?_of_answered hop ha
  have hdrives := drives_of_isCommand hop
  have htx : s.txAnswers = r :: lineAnswers rest := h.txAnswers.trans (lineAnswers_of_answer rest hop hr)
  have hstep : stepOn s = .next ((s.withLines rest).afterTransfer (frameOf s.cfg.pdCodes i) r) :=
    h.stepOn_eq.trans (perform_answered hi ⟨hlive, h.idle⟩ htx)
  have hcs := h.csAnswers_drop
  rw [hdrives] at hcs
  refine ⟨_, hstep, ⟨rfl, rfl, congrArg (List.drop 1) htx, hcs⟩, hlive, rfl, ?_⟩
  rw [List.flatMap_singleton, events_command hi hr, ← h.lineAnswer_eq (k := 0) (by omega),
    ← h.lineAnswer_eq (k := 1) (by omega), ← frameOf_eq_encode]
  rfl

/-- The three together: the first line of an admitted program runs. -/
theorem presents_step {b : Bool} (h : s.Presents (l :: rest)) (ha : l.Answered)
    (hb : l.op.liveAfter? s.live = some b) :
    ∃ u, stepOn s = .next u ∧ u.Presents rest ∧ u.live = b ∧ s.LeftBy u [l] := by
  cases hop : l.op.isCommand with
  | true =>
    rw [liveAfter?_command hop, Option.ite_none_right_eq_some] at hb
    obtain ⟨hlive, ⟨⟩⟩ := hb
    exact presents_command h hop ha hlive
  | false =>
    cases hl : l.op with
    | construct x t =>
      rw [hl, HostOp.liveAfter?, Option.ite_none_left_eq_some] at hb
      obtain ⟨hdead, ⟨⟩⟩ := hb
      exact presents_construct h hl (Bool.eq_false_of_not_eq_true hdead)
    | destroy =>
      rw [hl, HostOp.liveAfter?, Option.ite_none_right_eq_some] at hb
      obtain ⟨hlive, ⟨⟩⟩ := hb
      exact presents_destroy h hl hlive
    | pd m => simp [hl, HostOp.isCommand] at hop
    | wt x => simp [hl, HostOp.isCommand] at hop

/-- A command that is never answered stops with its frame held and the other lines waiting (R129). -/
theorem presents_silent {i : Instr} (h : s.Presents (l :: rest)) (hi : l.op.instr s.cfg.variant = some i)
    (htx : l.tx = .never) (hlive : s.live = true) :
    stepOn s = .next ((s.withLines rest).awaitingTransport (encode s.cfg.pdCodes i)) := by
  obtain ⟨hperform, hv⟩ := perform_instr (s := s.withLines rest) hi
  have hready : (s.withLines rest).Ready := ⟨hlive, h.idle⟩
  have hsilent : (s.withLines rest).txAnswers = [] :=
    h.txAnswers.trans (lineAnswers_of_never rest (isCommand_of_instr hi) htx)
  rw [h.stepOn_eq, hperform, command_of_ready _ hv.symm hready, send_silent _ hsilent, frameOf_eq_encode]
  rfl

end Lines

theorem State.LeftBy.refl (s : State TErr CErr) : s.LeftBy s [] :=
  ⟨rfl, (List.append_nil _).symm⟩

theorem State.LeftBy.trans {s t u : State TErr CErr} {lines more : List (Line TErr CErr)} (h₁ : s.LeftBy t lines)
    (h₂ : t.LeftBy u more) : s.LeftBy u (lines ++ more) :=
  ⟨h₂.cfg.trans h₁.cfg, by rw [h₂.trace, h₁.trace, h₁.cfg, List.flatMap_append, List.append_assoc]⟩

/-! ### Runs -/

/-- Admitted lines whose commands are answered run one step each. -/
theorem run_lines (rest : List Line) {b : Bool} (lines : List Line) :
    ∀ s : State, s.Presents (lines ++ rest) → (∀ l ∈ lines, l.Answered) →
      liveAfter? s.live (lines.map Line.op) = some b →
      ∃ t : State, (∀ n, core.run (lines.length + n) s = core.run n t) ∧ t.Presents rest ∧ t.live = b ∧
        s.LeftBy t lines := by
  induction lines with
  | nil =>
    intro s h _ hb
    exact ⟨s, fun n => by rw [List.length_nil, Nat.zero_add], h, Option.some.inj hb, .refl s⟩
  | cons l lines ih =>
    intro s h ha hb
    obtain ⟨hl, hlines⟩ := List.forall_mem_cons.mp ha
    rw [List.map_cons, liveAfter?_cons, Option.bind_eq_some_iff] at hb
    obtain ⟨live, hfirst, hb⟩ := hb
    obtain ⟨u, hstep, hu, rfl, hleft⟩ := presents_step h hl hfirst
    obtain ⟨t, hrun, ht, hlive, hmore⟩ := ih u hu hlines hb
    refine ⟨t, fun n => ?_, ht, hlive, hleft.trans hmore⟩
    rw [List.length_cons, Nat.add_right_comm, core_run_next hstep, hrun]

/-- A state that a step keeps is kept by every run. -/
theorem core_run_of_step_self {s : State} (h : step s = .next s) (n : Nat) : core.run n s = .next s := by
  induction n with
  | zero => rfl
  | succ n ih => rw [core_run_next h, ih]

/-- A run that begins with a command that is never answered ends in one state, however long it is (R129). -/
theorem run_silent {s : State} {l : Line} {rest : List Line} {i : Instr} (h : s.Presents (l :: rest))
    (hi : l.op.instr s.cfg.variant = some i) (htx : l.tx = .never) (hlive : s.live = true) (n : Nat) :
    core.run (n + 1) s = .next ((s.withLines rest).awaitingTransport (encode s.cfg.pdCodes i)) := by
  have hsilent : s.txAnswers = [] := h.txAnswers.trans (lineAnswers_of_never rest (isCommand_of_instr hi) htx)
  rw [core_run_next (presents_silent h hi htx hlive)]
  have hwait : step ((s.withLines rest).awaitingTransport (encode s.cfg.pdCodes i)) = .next _ :=
    stepOn_waits rfl hsilent (withLines_wellUsed rest s)
  exact core_run_of_step_self hwait n

theorem loadProgram_runs (codes : PdCodes) {p : Program TErr CErr} (h : ∀ l ∈ p.lines, l.Answered) :
    (loadProgram codes p).Runs (p.lines.map Line.op) := by
  obtain ⟨-, hlen⟩ := lineAnswers_of_answered h
  exact ⟨rfl, by rw [loadProgram_inputs, List.map_map]; rfl, Nat.le_of_eq hlen.symm⟩

end Sys2Proof.Machine

open Sys2Proof Sys2Proof.Machine

/-- Settles O43, by induction on the lines for the transport's answers. -/
theorem loadedProgramPresentsItsLines : Obligations.LoadedProgramPresentsItsLines := by
  unfold Obligations.LoadedProgramPresentsItsLines
  intro codes p
  refine ⟨rfl, rfl, rfl, fun h => ⟨loadProgram_runs codes h, ?_⟩⟩
  obtain ⟨heq, -⟩ := lineAnswers_of_answered h
  exact heq

/-- Settles O44: the lines run one by one, each leaving its own events; the results are those of any program that runs to
its end. -/
theorem programLeavesItsStatedEvents : Obligations.ProgramLeavesItsStatedEvents := by
  unfold Obligations.ProgramLeavesItsStatedEvents
  intro codes p h hlife
  obtain ⟨b, hb⟩ := hlife.admitted
  have hpresents := loadProgram_presents codes p
  rw [← List.append_nil p.lines] at hpresents
  obtain ⟨t, hrun, ht, -, hleft⟩ := run_lines [] p.lines _ hpresents h hb
  have hrun : core.run p.lines.length (loadProgram codes p) = .next t := hrun 0
  obtain ⟨heq, hlen⟩ := lineAnswers_of_answered h
  obtain ⟨hdone, -⟩ := run_completes (t := t) (p.lines.map Line.op) _ (loadProgram_runs codes h)
    (by rwa [List.length_map])
  refine ⟨t, hrun, ht.idle, hleft.trace, ?_⟩
  rw [hdone.results, loadProgram_returned, loadProgram_txAnswers, List.take_of_length_le (Nat.le_of_eq hlen), ← heq]
  rfl

/-- Settles O45: the lines before the silent one run to a state with a live handle, and its command stays where the
transport leaves it. -/
theorem silentLineStopsTheProgram : Obligations.SilentLineStopsTheProgram := by
  unfold Obligations.SilentLineStopsTheProgram
  intro codes p before after l hlines h hop htx hlife
  obtain ⟨b, hb⟩ := hlife.admitted
  rw [List.map_append, List.map_singleton] at hb
  have hpresents := loadProgram_presents codes p
  rw [hlines] at hpresents
  obtain ⟨u, hrun, hu, hlive, hleft⟩ :=
    run_lines (l :: after) before _ hpresents h (liveAfter?_before_command hop hb)
  have hcfg : u.cfg = { variant := p.variant, pdCodes := codes } := hleft.cfg
  obtain ⟨i, hi⟩ := instr_of_isCommand u.cfg.variant hop
  have hframe : l.op.frame? { variant := p.variant, pdCodes := codes } = some (encode u.cfg.pdCodes i) :=
    hcfg ▸ frame?_of_instr hi
  have htrace : u.trace = before.flatMap (Line.events { variant := p.variant, pdCodes := codes }) := hleft.trace
  have hdrives := drives_of_isCommand hop
  refine ⟨(u.withLines after).awaitingTransport (encode u.cfg.pdCodes i), fun n => ?_, rfl, rfl, hframe.symm,
    Option.some_ne_none _, rfl, ?_⟩
  · rw [Nat.add_assoc, hrun, Nat.add_comm, run_silent hu hi htx hlive]
  · rw [← htrace, ← hu.lineAnswer_eq (k := 0) (by omega)]
    rfl

end

section
/-! PROOFS. The device handle (R90 to R93): which presentations are admitted, what `CONSTRUCT` and `DESTROY` do, other users
of the resources, and the lifecycle grammar. -/

namespace Sys2Proof.Machine

variable {TErr CErr : Type}

/-! ### A presented operation is refused where it is not admitted (R149) -/

theorem execConstruct_refuses {s : State TErr CErr} (x : TransportToken) (l : LineToken)
    (h : ¬ (s.live = false ∧ s.phase = .idle)) : Refuses (execConstruct x l s) := by
  cases hr : s.constructNotAdmitted with
  | none => exact absurd (constructNotAdmitted_eq_none.mp hr) h
  | some r => exact ⟨r, by rw [execConstruct, hr]⟩

theorem execDestroy_refuses {s : State TErr CErr} (h : ¬ s.Ready) : Refuses (execDestroy s) := by
  obtain ⟨r, hr⟩ := notAdmitted_of_not_ready h
  exact ⟨r, by rw [execDestroy, hr]⟩

theorem perform_command_refuses {op : HostOp} {s : State TErr CErr} (hop : op.isCommand = true) (h : ¬ s.Ready) :
    Refuses (perform op s) := by
  obtain ⟨i, hi⟩ := instr_of_isCommand s.cfg.variant hop
  rw [(perform_instr hi).1]
  exact command_not_ready i.variant _ h

theorem perform_refuses {op : HostOp} {s : State TErr CErr} (h : ¬ op.Admitted s) : Refuses (perform op s) := by
  cases op with
  | construct x l => exact execConstruct_refuses x l fun ⟨hlive, hp⟩ => h ⟨hp, hlive⟩
  | destroy => exact execDestroy_refuses fun ⟨hlive, hp⟩ => h ⟨hp, hlive⟩
  | pd m => exact perform_command_refuses rfl fun ⟨hlive, hp⟩ => h ⟨hp, hlive⟩
  | wt x => exact perform_command_refuses rfl fun ⟨hlive, hp⟩ => h ⟨hp, hlive⟩

/-! ### Admission, and the handle after the operation -/

/-- Everything an admitted operation can be, with the handle before and after it. -/
theorem liveAfter?_eq_some {op : HostOp} {live b : Bool} (h : op.liveAfter? live = some b) :
    (∃ x l, op = .construct x l ∧ live = false ∧ b = true) ∨
    (op = .destroy ∧ live = true ∧ b = false) ∨
    (op.isCommand = true ∧ live = true ∧ b = true) := by
  cases hcmd : op.isCommand with
  | true =>
    rw [liveAfter?_command hcmd, Option.ite_none_right_eq_some] at h
    obtain ⟨hlive, ⟨⟩⟩ := h
    exact .inr (.inr ⟨rfl, hlive, rfl⟩)
  | false =>
    cases op with
    | construct x l =>
      rw [HostOp.liveAfter?, Option.ite_none_left_eq_some] at h
      obtain ⟨hdead, ⟨⟩⟩ := h
      exact .inl ⟨x, l, rfl, Bool.eq_false_of_not_eq_true hdead, rfl⟩
    | destroy =>
      rw [HostOp.liveAfter?, Option.ite_none_right_eq_some] at h
      obtain ⟨hlive, ⟨⟩⟩ := h
      exact .inr (.inl ⟨rfl, hlive, rfl⟩)
    | pd m => cases hcmd
    | wt x => cases hcmd

theorem admitted_iff {op : HostOp} {s : State TErr CErr} :
    op.Admitted s ↔ s.phase = .idle ∧ ∃ b, op.liveAfter? s.live = some b := by
  cases op <;> simp [HostOp.Admitted, HostOp.liveAfter?]

@[simp] theorem send_live (f : List Byte) (s : State TErr CErr) : (send f s).live = s.live := by
  rcases send_cases f s with ⟨r, _, -, h⟩ | ⟨-, h⟩
  · rw [h, afterTransfer_live]
  · rw [h, awaitingTransport_live]

theorem perform_liveAfter? {op : HostOp} {s t : State TErr CErr} (h : perform op s = .next t) :
    op.liveAfter? s.live = some t.live := by
  rcases perform_next h with ⟨x, l, rfl, hlive, -, rfl⟩ | ⟨hd, rfl, hh, -, rfl⟩ | ⟨i, hi, -, ⟨hlive, -⟩, rfl⟩
  · rw [hlive]
    rfl
  · rw [State.live, hh]
    rfl
  · rw [liveAfter?_command (isCommand_of_instr hi), send_live, hlive]
    rfl

theorem perform_of_admitted {op : HostOp} {s : State TErr CErr} (h : op.Admitted s) : ∃ t, perform op s = .next t := by
  obtain ⟨hp, b, hb⟩ := admitted_iff.mp h
  rcases liveAfter?_eq_some hb with ⟨x, l, rfl, hlive, -⟩ | ⟨rfl, hlive, -⟩ | ⟨hop, hlive, -⟩
  · exact ⟨_, execConstruct_of_admitted x l hlive hp⟩
  · obtain ⟨hd, hh⟩ := Option.isSome_iff_exists.mp hlive
    exact ⟨_, execDestroy_of_handle hh hp⟩
  · obtain ⟨i, hi⟩ := instr_of_isCommand s.cfg.variant hop
    obtain ⟨hperform, hv⟩ := perform_instr hi
    exact ⟨_, hperform.trans (command_of_ready _ hv.symm ⟨hlive, hp⟩)⟩

/-! ### CONSTRUCT -/

/-- The effect of `CONSTRUCT` written out (R90). -/
theorem construct_eq (x : TransportToken) (l : LineToken) (s : State TErr CErr) :
    construct x l s = { s with
      handle := some { transport := x, line := l }
      phase := .idle
      csCmd := .high
      csPhys := lineLevel .high (s.lineAnswer 0)
      trace := s.trace ++ [.cs .high (lineEvent (s.lineAnswer 0))]
      returned := s.returned ++ [.constructed]
      csAnswers := s.csAnswers.drop 1
      draws := s.draws + 1 } := by
  rw [List.drop_one]
  rfl

/-- `E-CS-INIT` is not reported (R141). -/
theorem reportedResult_constructConditions (a : CsAnswer CErr) :
    reportedResult (constructConditions a) = (.ok : TxAnswer TErr) := by
  cases a with
  | ok => rfl
  | err c => rfl

/-! ### Other users of the line and the transport -/

theorem stepOn_outsideDrive {s : State TErr CErr} {level : Level} {rest : List Input}
    (h : s.inputs = .outsideDrive level :: rest) :
    stepOn s = if s.live then .refused .notExclusive else .next { s with inputs := rest, csPhys := level } := by
  rw [stepOn, h]

theorem stepOn_outsideWrite {s : State TErr CErr} {bytes : List Byte} {rest : List Input}
    (h : s.inputs = .outsideWrite bytes :: rest) :
    stepOn s = if s.live then .refused .notExclusive else .next { s with inputs := rest } := by
  rw [stepOn, h]

/-! ### The lifecycle (R92) -/

theorem lifecycle_session {x : Session} {ops : List HostOp} (hx : ∀ op ∈ x.commands, op.isCommand = true)
    (h : Lifecycle ops) : Lifecycle (x.opening ++ .destroy :: ops) := by
  obtain ⟨done, last, hcmd, rfl⟩ := h
  exact ⟨x :: done, last, List.forall_mem_cons.mpr ⟨hx, hcmd⟩, by simp⟩

/-- What is admitted after the opening of a handle's life, or after none, completes it to a program of the grammar. -/
theorem lifecycle_of_admitted {b : Bool} (ops : List HostOp) :
    ∀ opened : Option Session, (∀ x ∈ opened.toList, ∀ op ∈ x.commands, op.isCommand = true) →
      liveAfter? opened.isSome ops = some b → Lifecycle (opened.toList.flatMap Session.opening ++ ops) := by
  induction ops with
  | nil => exact fun opened hcmd _ => ⟨[], opened, hcmd, List.append_nil _⟩
  | cons op ops ih =>
    intro opened hcmd hb
    rw [liveAfter?_cons, Option.bind_eq_some_iff] at hb
    obtain ⟨live, hfirst, hrest⟩ := hb
    rcases liveAfter?_eq_some hfirst with ⟨x, l, rfl, hdead, rfl⟩ | ⟨rfl, hlive, rfl⟩ | ⟨hop, hlive, rfl⟩
    · obtain rfl := Option.isNone_iff_eq_none.mp (Option.isSome_eq_false_iff.mp hdead)
      exact ih (some ⟨x, l, []⟩) (by simp) hrest
    · obtain ⟨x, rfl⟩ := Option.isSome_iff_exists.mp hlive
      have hclosed := lifecycle_session (hcmd x (by simp)) (ih none (by simp) hrest)
      simpa using hclosed
    · obtain ⟨x, rfl⟩ := Option.isSome_iff_exists.mp hlive
      have hmore : ∀ c ∈ x.commands ++ [op], c.isCommand = true :=
        List.forall_mem_append.mpr ⟨hcmd x (by simp), by simpa using hop⟩
      have hlonger := ih (some { x with commands := x.commands ++ [op] }) (by simpa using hmore) hrest
      simpa [Session.opening] using hlonger

theorem lifecycle_iff_admitted {ops : List HostOp} : Lifecycle ops ↔ ∃ b, liveAfter? false ops = some b :=
  ⟨Lifecycle.admitted, fun ⟨_, hb⟩ => lifecycle_of_admitted ops none (by simp) hb⟩

/-- A program runs to its end exactly if every operation is admitted where its turn comes. -/
theorem run_next_iff_admitted (ops : List HostOp) :
    ∀ s : State, s.Runs ops → ((∃ t, core.run ops.length s = .next t) ↔ ∃ b, liveAfter? s.live ops = some b) := by
  induction ops with
  | nil => exact fun s _ => ⟨fun _ => ⟨s.live, rfl⟩, fun _ => ⟨s, rfl⟩⟩
  | cons op ops ih =>
    intro s hruns
    have hstep : step s = perform op { s with inputs := ops.map .call } := runs_stepOn hruns
    by_cases hadm : op.Admitted { s with inputs := ops.map .call }
    · obtain ⟨u, hu⟩ := perform_of_admitted hadm
      have hlive : op.liveAfter? s.live = some u.live :=
        perform_liveAfter? (s := { s with inputs := ops.map .call }) hu
      obtain ⟨-, hrest⟩ := runs_step hruns (hstep.trans hu)
      rw [List.length_cons, core_run_next (hstep.trans hu), liveAfter?_cons, hlive]
      exact ih u hrest
    · obtain ⟨r, hr⟩ := perform_refuses hadm
      have hnone : op.liveAfter? s.live = none :=
        Option.eq_none_iff_forall_ne_some.mpr fun b hb => hadm (admitted_iff.mpr ⟨hruns.1, b, hb⟩)
      rw [List.length_cons, core_run_refused (hstep.trans hr), liveAfter?_cons, hnone]
      simp

end Sys2Proof.Machine

open Sys2Proof Sys2Proof.Machine

/-- Settles O40: to run to its end, to be admitted operation by operation, and to be of the grammar are the same. -/
theorem admittedProgramsAreTheLifecycles : Obligations.AdmittedProgramsAreTheLifecycles := by
  unfold Obligations.AdmittedProgramsAreTheLifecycles
  intro s ops hdead hruns
  rw [run_next_iff_admitted ops s hruns, hdead, lifecycle_iff_admitted]

/-- Settles O24, from the effect of `CONSTRUCT` written out; a live handle does not admit it. -/
theorem constructEstablishesTheIdleState : Obligations.ConstructEstablishesTheIdleState := by
  unfold Obligations.ConstructEstablishesTheIdleState
  refine fun x l s => ⟨fun hdead hp => ⟨?_, reportedResult_constructConditions _⟩, fun hlive => ?_⟩
  · rw [← construct_eq]
    exact execConstruct_of_admitted x l hdead hp
  · exact execConstruct_refuses x l fun ⟨hdead, _⟩ => Bool.eq_false_iff.mp hdead hlive

/-- Settles O25: the handle is gone, and what needs one is not admitted. -/
theorem destroyReturnsBothResources : Obligations.DestroyReturnsBothResources := by
  unfold Obligations.DestroyReturnsBothResources
  intro h s hh hp t
  have hgone : ¬ t.Ready := fun ⟨hlive, _⟩ => Bool.false_ne_true hlive
  refine ⟨execDestroy_of_handle hh hp, fun op hop => ?_⟩
  rcases hop with hop | rfl
  · exact perform_command_refuses hop hgone
  · exact execDestroy_refuses hgone

/-- Settles O27: what a step does with an outsider depends on the handle alone. -/
theorem outsidersOnlyWhileNoHandle : Obligations.OutsidersOnlyWhileNoHandle := by
  unfold Obligations.OutsidersOnlyWhileNoHandle
  refine fun s rest => ⟨fun level h => ?_, fun bytes h => ?_⟩
  · rw [step_eq_stepOn, stepOn_outsideDrive h]
    exact ⟨fun hlive => ⟨.notExclusive, if_pos hlive⟩, fun hdead => if_neg (Bool.eq_false_iff.mp hdead)⟩
  · rw [step_eq_stepOn, stepOn_outsideWrite h]
    exact ⟨fun hlive => ⟨.notExclusive, if_pos hlive⟩, fun hdead => if_neg (Bool.eq_false_iff.mp hdead)⟩

end

section
/-! PROOFS. The commands as instructions (R100 to R111): what `exec` answers where a command is admitted and the transport
answers, and where it is not admitted. -/

namespace Sys2Proof.Machine

/-- An admitted instruction the transport answers is one completed transfer of its frame (R120). -/
theorem exec_answered {i : Instr} {s : State} {r : TxAnswer} {rest : List TxAnswer} (hv : s.cfg.variant = i.variant)
    (hready : s.Ready) (htx : s.txAnswers = r :: rest) :
    exec i s = .next (s.afterTransfer (frameOf s.cfg.pdCodes i) r) := by
  rw [exec_eq_command, command_of_ready _ hv hready, send_answered _ htx]

theorem exec_not_ready (i : Instr) {s : State} (h : ¬ s.Ready) : Refuses (exec i s) := by
  rw [exec_eq_command]
  exact command_not_ready i.variant _ h

theorem frameOf_pdN (p : PdCodes) (m : Mode) :
    frameOf p (.pdN m) = [0x80#8 ||| ((p.code m).setWidth 8 <<< 2), 0x00#8] := rfl

theorem frameOf_pdW (p : PdCodes) (m : Mode) :
    frameOf p (.pdW m) = [0x80#8 ||| ((p.code m).setWidth 8 <<< 2), 0x00#8, 0x00#8] := rfl

end Sys2Proof.Machine

open Sys2Proof Sys2Proof.Machine

/-- Settles O11: an admitted `PD.N` transfers its frame, and without a ready instance it is refused. -/
theorem powerDownNarrowSendsItsFrame : Obligations.PowerDownNarrowSendsItsFrame := by
  unfold Obligations.PowerDownNarrowSendsItsFrame
  refine fun mode s hv => ⟨fun r rest hready htx => ?_, exec_not_ready (.pdN mode)⟩
  rw [exec_answered hv hready htx, frameOf_pdN]

/-- Settles O12: an admitted `PD.W` transfers its frame, and without a ready instance it is refused. -/
theorem powerDownWideSendsItsFrame : Obligations.PowerDownWideSendsItsFrame := by
  unfold Obligations.PowerDownWideSendsItsFrame
  refine fun mode s hv => ⟨fun r rest hready htx => ?_, exec_not_ready (.pdW mode)⟩
  rw [exec_answered hv hready htx, frameOf_pdW]

end

section
/-! PROOFS. The write-through commands as instructions (R110, R111): the bytes written out, and what `exec` answers. -/

namespace Sys2Proof.Machine

theorem frameOf_wtN (p : PdCodes) (v : Value) :
    frameOf p (.wtN v) = [0x40#8 ||| ((v >>> 8).setWidth 8 &&& 0x3F#8), v.setWidth 8] := rfl

theorem frameOf_wtW (p : PdCodes) (v : Value) :
    frameOf p (.wtW v) =
      [0x40#8 ||| (v >>> 10).setWidth 8, (v >>> 2).setWidth 8, (v &&& 0x0003#16).setWidth 8 <<< 6] := rfl

end Sys2Proof.Machine

open Sys2Proof Sys2Proof.Machine

/-- Settles O13: an admitted `WT.N` transfers its frame, and without a ready instance it is refused. -/
theorem writeThroughNarrowSendsItsFrame : Obligations.WriteThroughNarrowSendsItsFrame := by
  unfold Obligations.WriteThroughNarrowSendsItsFrame
  refine fun value s hv => ⟨fun r rest hready htx => ?_, exec_not_ready (.wtN value)⟩
  rw [exec_answered hv hready htx, frameOf_wtN]

/-- Settles O14: an admitted `WT.W` transfers its frame, and without a ready instance it is refused. -/
theorem writeThroughWideSendsItsFrame : Obligations.WriteThroughWideSendsItsFrame := by
  unfold Obligations.WriteThroughWideSendsItsFrame
  refine fun value s hv => ⟨fun r rest hready htx => ?_, exec_not_ready (.wtW value)⟩
  rw [exec_answered hv hready htx, frameOf_wtW]

end

section
/-! PROOFS. The transfer framer (43_transfer_framer.md): what a command leaves of the hardware, a transport that never
answers, the four steps one by one and in a row, and the independence of what the control line answers. -/

namespace Sys2Proof.Machine

variable {TErr CErr : Type}

/-! ### What a command leaves of the hardware (R131) -/

/-- Between operations nothing is held and a live handle's line is high, which is what a completed transfer leaves. -/
theorem hardware_afterTransfer {s : State TErr CErr} (bytes : List Byte) (r : TxAnswer TErr) (hs : s.BlockInv)
    (hr : s.Ready) : (s.afterTransfer bytes r).hardware = s.hardware := by
  obtain ⟨hlive, hp⟩ := hr
  obtain ⟨hframe, hres, hline⟩ := (blockInv_iff_of_idle hp).mp hs
  simp [State.hardware, hp, hframe, hres, hline (.inl hlive)]

/-! ### A transport that never answers (R129) -/

/-- An admitted instruction the transport does not answer asks for the write of its frame and gets no further. -/
theorem exec_silent {i : Instr} {s : State} (hv : s.cfg.variant = i.variant) (hready : s.Ready)
    (htx : s.txAnswers = []) : exec i s = .next (s.awaitingTransport (encode s.cfg.pdCodes i)) := by
  rw [exec_eq_command, command_of_ready _ hv hready, send_silent _ htx, frameOf_eq_encode]

/-! ### The framer's step in each phase (R122 to R125, R160) -/

theorem framerStep_idle {s : State TErr CErr} (hp : s.phase = .idle) : framerStep s = s := by
  rw [framerStep, hp]

theorem framerStep_asserting {s : State TErr CErr} (hp : s.phase = .asserting) : framerStep s = transferStep s := by
  rw [framerStep, hp]

theorem framerStep_silent {s : State TErr CErr} (hp : s.phase = .transferring) (htx : s.txAnswers = []) :
    framerStep s = s := by
  rw [framerStep, hp, htx]

theorem framerStep_answered {s : State TErr CErr} {r : TxAnswer TErr} {rest : List (TxAnswer TErr)}
    (hp : s.phase = .transferring) (htx : s.txAnswers = r :: rest) : framerStep s = deassertStep r s := by
  rw [framerStep, hp, htx]

theorem framerStep_deasserting {s : State TErr CErr} (hp : s.phase = .deasserting) : framerStep s = finishStep s := by
  rw [framerStep, hp]

@[simp] theorem deassertStep_phase (r : TxAnswer TErr) (s : State TErr CErr) :
    (deassertStep r s).phase = .deasserting := rfl

/-! ### The framer's steps in a row are one SEND (R130) -/

theorem framerSteps_of_framerStep_self {s : State TErr CErr} (h : framerStep s = s) (n : Nat) :
    framerSteps n s = s := by
  induction n with
  | zero => rfl
  | succ n ih => rw [framerSteps, h, ih]

/-- The first two steps bring the block to where it waits for the transport. -/
theorem transferStep_assertStep (f : List Byte) (s : State TErr CErr) :
    transferStep (assertStep f s) = s.awaitingTransport f := by
  rw [State.awaitingTransport, List.drop_one]
  rfl

theorem lineAnswer_awaitingTransport (f : List Byte) (s : State TErr CErr) (k : Nat) :
    (s.awaitingTransport f).lineAnswer k = s.lineAnswer (k + 1) := by
  rw [← lineAnswer_tail, ← List.drop_one]
  rfl

/-- The last two steps bring it from there to the end of the transfer. -/
theorem finishStep_deassertStep_awaitingTransport (f : List Byte) (r : TxAnswer TErr) (s : State TErr CErr) :
    finishStep (deassertStep r (s.awaitingTransport f)) = s.afterTransfer f r := by
  rw [finishStep_closed, deassertStep_closed, lineAnswer_awaitingTransport]
  simp [State.awaitingTransport, State.afterTransfer, ← List.drop_one]

/-- A block that waits and is answered has completed the transfer after two steps, and then stays idle. -/
theorem framerSteps_awaitingTransport {s : State TErr CErr} {r : TxAnswer TErr} {rest : List (TxAnswer TErr)}
    (f : List Byte) (htx : s.txAnswers = r :: rest) (n : Nat) :
    framerSteps (n + 2) (s.awaitingTransport f) = s.afterTransfer f r := by
  have hanswered : framerStep (s.awaitingTransport f) = deassertStep r (s.awaitingTransport f) :=
    framerStep_answered rfl htx
  rw [framerSteps, framerSteps, hanswered, framerStep_deasserting (deassertStep_phase r _),
    finishStep_deassertStep_awaitingTransport]
  exact framerSteps_of_framerStep_self (framerStep_idle rfl) n

/-- Three steps after the assertion are one `SEND`, answered or not. -/
theorem framerSteps_assertStep (f : List Byte) (s : State TErr CErr) (n : Nat) :
    framerSteps (n + 3) (assertStep f s) = send f s := by
  rw [framerSteps, framerStep_asserting rfl, transferStep_assertStep]
  rcases send_cases f s with ⟨r, rest, htx, hsend⟩ | ⟨htx, hsend⟩
  · rw [hsend, framerSteps_awaitingTransport f htx]
  · rw [hsend]
    exact framerSteps_of_framerStep_self (framerStep_silent (awaitingTransport_phase f s) htx) _

/-- A late answer finds a `SEND` that waits where an early one would have found it (R124, R129). -/
theorem framerSteps_send_transportAnswers {s : State TErr CErr} (f : List Byte) (r : TxAnswer TErr)
    (htx : s.txAnswers = []) (n : Nat) :
    framerSteps (n + 2) ((send f s).transportAnswers r) = send f (s.transportAnswers r) := by
  have hanswer : (s.transportAnswers r).txAnswers = [r] := by rw [State.transportAnswers, htx, List.nil_append]
  have hlate : (s.awaitingTransport f).transportAnswers r = (s.transportAnswers r).awaitingTransport f := rfl
  rw [send_silent f htx, hlate, framerSteps_awaitingTransport f hanswer, send_answered f hanswer]

/-! ### The control line's answers (R127, R142)

An operation on the state with the control line's answers taken out ends as the operation on the state itself, but for
these answers. So what two states share that are equal without them decides what they share after a step. -/

section LineBlind

variable {s : State TErr CErr}

@[simp] theorem lineBlind_cfg : s.lineBlind.cfg = s.cfg := rfl
@[simp] theorem lineBlind_handle : s.lineBlind.handle = s.handle := rfl
@[simp] theorem lineBlind_live : s.lineBlind.live = s.live := rfl
@[simp] theorem lineBlind_phase : s.lineBlind.phase = s.phase := rfl
@[simp] theorem lineBlind_inputs : s.lineBlind.inputs = s.inputs := rfl
@[simp] theorem lineBlind_txAnswers : s.lineBlind.txAnswers = s.txAnswers := rfl
@[simp] theorem lineBlind_notAdmitted : s.lineBlind.notAdmitted = s.notAdmitted := rfl
@[simp] theorem lineBlind_constructNotAdmitted : s.lineBlind.constructNotAdmitted = s.constructNotAdmitted := rfl

@[simp] theorem event_lineBlind_cs (level : Level) (a : CsAnswer CErr) :
    (Event.cs level a : Event TErr CErr).lineBlind = .cs level .ok := rfl
@[simp] theorem event_lineBlind_wr (f : List Byte) (r : TxAnswer TErr) :
    (Event.wr f r : Event TErr CErr).lineBlind = .wr f r := rfl

@[simp] theorem event_lineBlind_lineBlind (e : Event TErr CErr) : e.lineBlind.lineBlind = e.lineBlind := by
  cases e <;> rfl

@[simp] theorem lineBlind_lineBlind : s.lineBlind.lineBlind = s.lineBlind := by
  simp [State.lineBlind]

theorem lineBlind_construct (x : TransportToken) (l : LineToken) :
    (construct x l s.lineBlind).lineBlind = (construct x l s).lineBlind := by
  simp [construct_eq, State.lineBlind]

theorem lineBlind_send (f : List Byte) : (send f s.lineBlind).lineBlind = (send f s).lineBlind := by
  cases htx : s.txAnswers with
  | nil =>
    rw [send_silent f htx, send_silent (s := s.lineBlind) f htx]
    simp [State.awaitingTransport, State.lineBlind]
  | cons r rest =>
    rw [send_answered f htx, send_answered (s := s.lineBlind) f htx]
    simp [State.afterTransfer, State.lineBlind]

theorem lineBlind_deassertStep (r : TxAnswer TErr) :
    (deassertStep r s.lineBlind).lineBlind = (deassertStep r s).lineBlind := by
  simp [deassertStep_closed, State.lineBlind]

theorem lineBlind_finishStep : (finishStep s.lineBlind).lineBlind = (finishStep s).lineBlind := by
  simp [finishStep_closed, State.lineBlind]

theorem lineBlind_framerStep : (framerStep s.lineBlind).lineBlind = (framerStep s).lineBlind := by
  rcases framerStep_cases s with ⟨hp, h⟩ | ⟨hp, h⟩ | ⟨hp, htx, h⟩ | ⟨r, rest, hp, htx, h⟩ | ⟨hp, h⟩
  · rw [h, framerStep_idle (s := s.lineBlind) hp, lineBlind_lineBlind]
  · rw [h, framerStep_asserting (s := s.lineBlind) hp]
    simp [transferStep, State.lineBlind]
  · rw [h, framerStep_silent (s := s.lineBlind) hp htx, lineBlind_lineBlind]
  · rw [h, framerStep_answered (s := s.lineBlind) hp htx, lineBlind_deassertStep]
  · rw [h, framerStep_deasserting (s := s.lineBlind) hp, lineBlind_finishStep]

/-! Outcomes: a refusal does not depend on the answers either. -/

theorem mapNext_lineBlind_command (v : Variant) (f : List Byte) :
    mapNext State.lineBlind (command v f s.lineBlind) = mapNext State.lineBlind (command v f s) := by
  rw [command, command, lineBlind_cfg, lineBlind_notAdmitted]
  split
  · cases s.notAdmitted with
    | some r => rfl
    | none => exact congrArg Host.Outcome.next (lineBlind_send f)
  · rfl

theorem mapNext_lineBlind_execConstruct (x : TransportToken) (l : LineToken) :
    mapNext State.lineBlind (execConstruct x l s.lineBlind) = mapNext State.lineBlind (execConstruct x l s) := by
  rw [execConstruct, execConstruct, lineBlind_constructNotAdmitted]
  cases s.constructNotAdmitted with
  | some r => rfl
  | none => exact congrArg Host.Outcome.next (lineBlind_construct x l)

theorem mapNext_lineBlind_execDestroy :
    mapNext State.lineBlind (execDestroy s.lineBlind) = mapNext State.lineBlind (execDestroy s) := by
  rw [execDestroy, execDestroy, lineBlind_notAdmitted, lineBlind_handle]
  cases s.notAdmitted with
  | some r => rfl
  | none =>
    cases s.handle with
    | none => rfl
    | some hd => simp [mapNext, State.giveBack, State.lineBlind]

theorem mapNext_lineBlind_perform (op : HostOp) :
    mapNext State.lineBlind (perform op s.lineBlind) = mapNext State.lineBlind (perform op s) := by
  have command_case {i : Instr} (hi : op.instr s.cfg.variant = some i) :
      mapNext State.lineBlind (perform op s.lineBlind) = mapNext State.lineBlind (perform op s) := by
    rw [(perform_instr hi).1, (perform_instr (s := s.lineBlind) hi).1, lineBlind_cfg, mapNext_lineBlind_command]
  cases op with
  | construct x l => exact mapNext_lineBlind_execConstruct x l
  | destroy => exact mapNext_lineBlind_execDestroy
  | pd m => exact command_case rfl
  | wt x => exact command_case rfl

/-- One step ends alike with and without the control line's answers, but for these. -/
theorem mapNext_lineBlind_stepOn :
    mapNext State.lineBlind (stepOn s.lineBlind) = mapNext State.lineBlind (stepOn s) := by
  have hframer : mapNext State.lineBlind (.next (framerStep s.lineBlind)) =
      mapNext State.lineBlind (.next (framerStep s)) :=
    congrArg Host.Outcome.next lineBlind_framerStep
  have hsame (rest : List Input) :
      mapNext State.lineBlind (.next ({ s with inputs := rest } : State TErr CErr).lineBlind) =
      mapNext State.lineBlind (.next { s with inputs := rest }) :=
    congrArg Host.Outcome.next lineBlind_lineBlind
  rw [stepOn, stepOn, lineBlind_inputs, lineBlind_phase, lineBlind_live]
  cases s.inputs with
  | nil => exact hframer
  | cons input rest =>
    cases input with
    | call op =>
      dsimp only
      split
      · exact mapNext_lineBlind_perform (s := { s with inputs := rest }) op
      · exact hframer
    | overlapping op => rfl
    | contended op₁ op₂ => rfl
    | outsideDrive level =>
      cases s.live with
      | true => rfl
      | false => exact hsame rest
    | outsideWrite bytes =>
      cases s.live with
      | true => rfl
      | false => exact hsame rest

end LineBlind

end Sys2Proof.Machine

open Sys2Proof Sys2Proof.Machine

/-- Settles O32: each of the two states steps as the one state they are without the control line's answers. -/
theorem driveAnswersNeverSteer : Obligations.DriveAnswersNeverSteer := by
  unfold Obligations.DriveAnswersNeverSteer
  intro s s' h
  rw [step_eq_stepOn, step_eq_stepOn, ← mapNext_lineBlind_stepOn, h, mapNext_lineBlind_stepOn]

/-- Settles O18: the command is one completed transfer, answered `Ok` or `Err` alike. -/
theorem returnedCommandLeavesHardwareAsItWas : Obligations.ReturnedCommandLeavesHardwareAsItWas := by
  unfold Obligations.ReturnedCommandLeavesHardwareAsItWas
  intro i s hs hv hready htx
  obtain ⟨r, rest, hr⟩ := List.exists_cons_of_ne_nil htx
  exact ⟨_, exec_answered hv.symm hready hr, hardware_afterTransfer _ r hs hready⟩

/-- Settles O19: the command waits, and a step from where it waits stays there, whatever operations are presented. -/
theorem silentTransportLeavesCommandStuck : Obligations.SilentTransportLeavesCommandStuck := by
  unfold Obligations.SilentTransportLeavesCommandStuck
  intro i s hv hready hused htx
  have hstuck : step (s.awaitingTransport (encode s.cfg.pdCodes i)) =
      .next (s.awaitingTransport (encode s.cfg.pdCodes i)) := stepOn_waits rfl htx hused
  exact ⟨exec_silent hv.symm hready htx, core_run_of_step_self hstuck⟩

/-- Settles O21: the first two steps lead to where `SEND` waits, the last two from there to where it ends. -/
theorem framerStepsAreOneSend : Obligations.FramerStepsAreOneSend := by
  unfold Obligations.FramerStepsAreOneSend
  intro f s n hn
  obtain ⟨k, rfl⟩ := Nat.exists_eq_add_of_le' hn
  exact framerSteps_assertStep f s k

/-- Settles O22: a `SEND` that waits, once answered, is where the answered `SEND` was when it asked for the write. -/
theorem lateAnswerResumesTheCommand : Obligations.LateAnswerResumesTheCommand := by
  unfold Obligations.LateAnswerResumesTheCommand
  intro f s r n htx hn
  obtain ⟨k, rfl⟩ := Nat.exists_eq_add_of_le' hn
  exact framerSteps_send_transportAnswers f r htx k

/-- Settles O20: the framer's step in each phase, with the step's effect written out. -/
theorem framerTakesTheFourArrows : Obligations.FramerTakesTheFourArrows := by
  unfold Obligations.FramerTakesTheFourArrows
  refine ⟨?assert, ?transfer, ?deassert, ?wait, ?finish⟩
  case assert => exact fun f s _ => ⟨rfl, rfl, rfl, rfl, rfl, rfl⟩
  case transfer => exact fun s hp => framerStep_asserting hp
  case deassert =>
    intro s f r rest hp hf htx
    rw [framerStep_answered hp htx, deassertStep_closed]
    simp [hf, htx]
  case wait => exact fun s hp htx => framerStep_silent hp htx
  case finish =>
    intro s r hp hr
    rw [framerStep_deasserting hp, finishStep_closed, hr]
    rfl

end

section
/-! PROOFS. Errors and their propagation (60_exceptions.md): what the conditions of a command report, which steps are refused,
and that an operation in progress takes no input. -/

namespace Sys2Proof.Machine

variable {TErr CErr : Type}

/-! ### What the conditions of a command report (R141, R145) -/

/-- A condition of the control line, of a kind that is not reported, leaves the result to the other conditions. -/
theorem findSome?_reported_lineCondition {mk : CErr → Condition TErr CErr} (hmk : ∀ c, (mk c).reported = none)
    (a : CsAnswer CErr) : (lineCondition mk a).toList.findSome? Condition.reported = none := by
  cases a with
  | ok => rfl
  | err c => rw [lineCondition, Option.toList_some, List.findSome?_singleton, hmk]

/-- The result is the transport's answer alone. -/
theorem reportedResult_commandConditions (a : CsAnswer CErr) (r : TxAnswer TErr) (b : CsAnswer CErr) :
    reportedResult (commandConditions a r b) = r := by
  have hassert : (lineCondition (TErr := TErr) .eCsAssert a).toList.findSome? Condition.reported = none :=
    findSome?_reported_lineCondition (fun _ => rfl) a
  have hdeassert : (lineCondition (TErr := TErr) .eCsDeassert b).toList.findSome? Condition.reported = none :=
    findSome?_reported_lineCondition (fun _ => rfl) b
  unfold reportedResult commandConditions
  rw [List.findSome?_append, List.findSome?_append, hassert, hdeassert]
  cases r with
  | ok => rfl
  | err e => rfl

/-! ### Presentations that are misuse (R149) -/

theorem stepOn_overlapping {s : State TErr CErr} {op : HostOp} {rest : List Input}
    (h : s.inputs = .overlapping op :: rest) : stepOn s = .refused .busy := by
  rw [stepOn, h]

theorem stepOn_contended {s : State TErr CErr} {op₁ op₂ : HostOp} {rest : List Input}
    (h : s.inputs = .contended op₁ op₂ :: rest) : stepOn s = .refused .contended := by
  rw [stepOn, h]

/-! ### An operation in progress, and an idle block (R144, R160) -/

theorem stepOn_nothing_presented {s : State TErr CErr} (h : s.inputs = []) : stepOn s = .next (framerStep s) := by
  rw [stepOn, h]

theorem stepOn_call_in_progress {s : State TErr CErr} {op : HostOp} {rest : List Input} (hp : s.phase ≠ .idle)
    (h : s.inputs = .call op :: rest) : stepOn s = .next (framerStep s) := by
  rw [stepOn, h]
  exact if_neg hp

/-- While an operation is in progress the framer carries on, whatever operations wait their turn. -/
theorem stepOn_in_progress {s : State TErr CErr} (hused : s.WellUsed) (hp : s.phase ≠ .idle) :
    stepOn s = .next (framerStep s) := by
  cases hi : s.inputs with
  | nil => exact stepOn_nothing_presented hi
  | cons input rest =>
    obtain ⟨op, rfl⟩ := hused input (hi ▸ List.mem_cons_self)
    exact stepOn_call_in_progress hp hi

@[simp] theorem deassertStep_inputs (r : TxAnswer TErr) (s : State TErr CErr) :
    (deassertStep r s).inputs = s.inputs := by
  rw [deassertStep_closed]

@[simp] theorem finishStep_inputs (s : State TErr CErr) : (finishStep s).inputs = s.inputs := by
  rw [finishStep_closed]

@[simp] theorem framerStep_inputs (s : State TErr CErr) : (framerStep s).inputs = s.inputs := by
  rcases framerStep_cases s with ⟨-, h⟩ | ⟨-, h⟩ | ⟨-, -, h⟩ | ⟨r, -, -, -, h⟩ | ⟨-, h⟩
  · rw [h]
  · rw [h, transferStep_inputs]
  · rw [h]
  · rw [h, deassertStep_inputs]
  · rw [h, finishStep_inputs]

end Sys2Proof.Machine

open Sys2Proof Sys2Proof.Machine

/-- Settles O17: the command is one completed transfer, and its conditions report the transport's answer. -/
theorem commandReportsOnlyTheTransferError : Obligations.CommandReportsOnlyTheTransferError := by
  unfold Obligations.CommandReportsOnlyTheTransferError
  intro i s r rest hv hready htx
  refine ⟨_, _, _, _, exec_answered hv.symm hready htx, afterTransfer_trace .., rfl, rfl, ?_⟩
  rw [reportedResult_commandConditions, afterTransfer_returned]

/-- Settles O26: an operation is performed where it is admitted and refused elsewhere, and a step that meets misuse
looks at nothing else. -/
theorem admissionIsByHandleAndPhase : Obligations.AdmissionIsByHandleAndPhase := by
  unfold Obligations.AdmissionIsByHandleAndPhase
  refine ⟨?admission, ?overlapping, ?contended⟩
  case admission => exact fun op s => ⟨perform_of_admitted, perform_refuses⟩
  case overlapping => exact fun op rest s h => ⟨.busy, stepOn_overlapping h⟩
  case contended => exact fun op₁ op₂ rest s h => ⟨.contended, stepOn_contended h⟩

/-- Settles O30: a step is the framer's, which takes no input and in `IDLE` changes nothing. -/
theorem operationInProgressIsNotInterrupted : Obligations.OperationInProgressIsNotInterrupted := by
  unfold Obligations.OperationInProgressIsNotInterrupted
  intro s hused
  refine ⟨fun hp => ⟨stepOn_in_progress hused hp, framerStep_inputs s⟩, fun hp hnone => ?_⟩
  rw [step_eq_stepOn, stepOn_nothing_presented hnone, framerStep_idle hp]

end

section
/-! PROOFS. The bounded return of an operation in progress (R173): phase by phase from `DEASSERTING` back, each framer step
leads to the phase that returns one step sooner. -/

namespace Sys2Proof.Machine

/-- At most `n` steps lead from `s` to `IDLE` with the line commanded high, a live handle and exactly one result more. -/
def State.ReturnsWithin (n : Nat) (s : State) : Prop :=
  ∃ k ≤ n, ∃ t r, core.run k s = .next t ∧ t.phase = .idle ∧ t.csCmd = .high ∧ t.live = true ∧
    t.returned = s.returned ++ [.result r]

theorem State.ReturnsWithin.mono {n m : Nat} {s : State} (h : s.ReturnsWithin n) (hnm : n ≤ m) : s.ReturnsWithin m := by
  obtain ⟨k, hk, hrun⟩ := h
  exact ⟨k, hk.trans hnm, hrun⟩

/-- The framer takes no input, so what waits its turn stays as it was. -/
theorem wellUsed_framerStep {s : State} (hused : s.WellUsed) : (framerStep s).WellUsed := by
  rw [State.WellUsed, framerStep_inputs]
  exact hused

/-- A step of the framer that returns nothing itself brings the return one step nearer. -/
theorem returnsWithin_of_framerStep {n : Nat} {s : State} (hused : s.WellUsed) (hp : s.phase ≠ .idle)
    (hreturned : (framerStep s).returned = s.returned) (h : (framerStep s).ReturnsWithin n) :
    s.ReturnsWithin (n + 1) := by
  obtain ⟨k, hk, t, r, hrun, hidle, hhigh, hlive, hresult⟩ := h
  refine ⟨k + 1, Nat.succ_le_succ hk, t, r, ?_, hidle, hhigh, hlive, hreturned ▸ hresult⟩
  rw [core_run_next (stepOn_in_progress hused hp), hrun]

/-- In `DEASSERTING` the result is held and the line is high already: the next step returns (R125). -/
theorem returnsWithin_deasserting {s : State} (hs : s.BlockInv) (hused : s.WellUsed) (hp : s.phase = .deasserting) :
    s.ReturnsWithin 1 := by
  have hbusy : s.phase ≠ .idle := by simp [hp]
  obtain ⟨hlive, -, -, hres⟩ := (blockInv_iff_of_busy hbusy).mp hs
  obtain ⟨r, hr⟩ := Option.isSome_iff_exists.mp (hres.mpr hp)
  have hstep : step s = .next (finishStep s) := framerStep_deasserting hp ▸ stepOn_in_progress hused hbusy
  have hidle := blockInv_finishStep hs hp
  rw [finishStep_eq hr] at hstep hidle
  obtain ⟨-, -, hhigh⟩ := (blockInv_iff_of_idle rfl).mp hidle
  exact ⟨1, le_rfl, _, r, core_run_next hstep, rfl, hhigh (.inl hlive), hlive, rfl⟩

/-- In `TRANSFERRING` the transport's answer leads to `DEASSERTING` (R124). -/
theorem returnsWithin_transferring {s : State} (hs : s.BlockInv) (hused : s.WellUsed) (hp : s.phase = .transferring)
    (htx : s.txAnswers ≠ []) : s.ReturnsWithin 2 := by
  obtain ⟨r, rest, hr⟩ := List.exists_cons_of_ne_nil htx
  have hstep : framerStep s = deassertStep r s := framerStep_answered hp hr
  have hused' : (deassertStep r s).WellUsed := hstep ▸ wellUsed_framerStep hused
  refine returnsWithin_of_framerStep hused (by simp [hp]) ?_ ?_
  · rw [hstep, deassertStep_closed]
  · rw [hstep]
    exact returnsWithin_deasserting (blockInv_deassertStep r hs hp) hused' (deassertStep_phase r s)

/-- In `ASSERTING` the write is requested next, and the answer is still to come (R123). -/
theorem returnsWithin_asserting {s : State} (hs : s.BlockInv) (hused : s.WellUsed) (hp : s.phase = .asserting)
    (htx : s.txAnswers ≠ []) : s.ReturnsWithin 3 := by
  have hstep : framerStep s = transferStep s := framerStep_asserting hp
  refine returnsWithin_of_framerStep hused (by simp [hp]) ?_ ?_
  · rw [hstep, transferStep_returned]
  · rw [hstep]
    exact returnsWithin_transferring (blockInv_transferStep hs hp) hused (transferStep_phase s) htx

end Sys2Proof.Machine

open Sys2Proof Sys2Proof.Machine

/-- Settles O23: `DEASSERTING` returns after one step, `TRANSFERRING` after two and `ASSERTING` after three. -/
theorem operationInProgressReturns : Obligations.OperationInProgressReturns := by
  unfold Obligations.OperationInProgressReturns
  intro s hs hused hbusy htx
  change s.ReturnsWithin 3
  cases hp : s.phase with
  | idle => exact absurd hp hbusy
  | asserting => exact returnsWithin_asserting hs hused hp htx
  | transferring => exact (returnsWithin_transferring hs hused hp htx).mono (by decide)
  | deasserting => exact (returnsWithin_deasserting hs hused hp).mono (by decide)

end
